-- ==== Sys2Proof/Word.lean ====
section
/-! DEFINITION. The word types of the block: a byte, a 16-bit word and the 128-bit command word (00_scope.md R8,
30_encoding.md R70). Every value is unsigned; bit 0 is the least significant bit. -/
namespace Sys2Proof

/-- A byte: an unsigned 8-bit value (R8). -/
abbrev Byte := BitVec 8

/-- A word: an unsigned 16-bit value (R8). -/
abbrev Word := BitVec 16

/-- A command word `c[127:0]` (R70). It is a value, not a byte array (R58). -/
abbrev CmdWord := BitVec 128

end Sys2Proof
end

