-- ==== Sys2Proof/Syntax.lean ====
section
/-! DEFINITION. The commands: one constructor for each row of spec/opcode_table.json, with the operand fields of
30_encoding.md R70 at their widths. -/
namespace Sys2Proof

/-- A command (R71). The two reserved rows spell no command (R74), and their constructors keep the bits of the
word that the row does not fix. -/
inductive Instr where
  /-- `NOP` (R180). -/
  | nop
  /-- `RESET` (R181). -/
  | reset
  /-- `PUSH b` (R140). -/
  | push (b : Byte)
  /-- `PARSER_CLEAR` (R162). -/
  | parserClear
  /-- `FRAME_READ` (R161). -/
  | frameRead
  /-- `CRC_CLEAR` (R105). -/
  | crcClear
  /-- `CRC_BYTE b` (R106). -/
  | crcByte (b : Byte)
  /-- `CRC_WORD w` (R107). -/
  | crcWord (w : Word)
  /-- `ENC_A` (R120): `LEN`, `B`, `ADDR`, `DATA`. -/
  | encA (len : BitVec 4) (b : Byte) (addr : BitVec 24) (data : BitVec 64)
  /-- `ENC_S` (R122): `LEN`, `B`, `ADDR`, `SUB`, `CMD`, `PEND`, `DATA`. -/
  | encS (len : BitVec 4) (b : Byte) (addr : BitVec 24) (sub : BitVec 4) (cmd : BitVec 3) (pend : BitVec 1)
      (data : BitVec 64)
  /-- Reserved `OP` = 0xA or 0xB: `low` is `c[0]`, `rest` is `c[127:4]` (R74, R182). -/
  | reservedAB (low : BitVec 1) (rest : BitVec 124)
  /-- Reserved `OP` = 0xC to 0xF: `low` is `c[1:0]`, `rest` is `c[127:4]` (R74, R182). -/
  | reservedCF (low : BitVec 2) (rest : BitVec 124)
  deriving DecidableEq, Repr

/-- The row of spec/opcode_table.json a command belongs to. -/
def Instr.mnemonic : Instr → String
  | .nop => "NOP"
  | .reset => "RESET"
  | .push _ => "PUSH"
  | .parserClear => "PARSER_CLEAR"
  | .frameRead => "FRAME_READ"
  | .crcClear => "CRC_CLEAR"
  | .crcByte _ => "CRC_BYTE"
  | .crcWord _ => "CRC_WORD"
  | .encA _ _ _ _ => "ENC_A"
  | .encS _ _ _ _ _ _ _ => "ENC_S"
  | .reservedAB _ _ => "RESERVED_A_B"
  | .reservedCF _ _ => "RESERVED_C_F"

end Sys2Proof
end

