-- ==== Sys2Proof/Decode.lean ====
section
/-! DEFINITION. Decoding a command word and encoding a command (30_encoding.md R70 to R77). The decoder is total: a
word gives a command, or is rejected by name when it has a legal opcode and a 1 in a fixed bit (R75). -/
namespace Sys2Proof

/-- Why a word spells no command although its opcode is legal (R75). The machine answers such a word
`NOT_SUPPORTED` and goes on (R182). -/
inductive Reject where
  | fixedBits (op : BitVec 4)
  deriving DecidableEq, Repr

/-! ### Operand fields (R70, R73) -/

/-- `OP = c[3:0]`. -/
def opField (c : CmdWord) : BitVec 4 := c.extractLsb' 0 4
/-- `LEN = c[7:4]`. -/
def lenField (c : CmdWord) : BitVec 4 := c.extractLsb' 4 4
/-- `B = c[15:8]`. -/
def bField (c : CmdWord) : Byte := c.extractLsb' 8 8
/-- `W = c[31:16]`. -/
def wField (c : CmdWord) : Word := c.extractLsb' 16 16
/-- `ADDR = c[55:32]`. -/
def addrField (c : CmdWord) : BitVec 24 := c.extractLsb' 32 24
/-- `SUB = c[59:56]`. -/
def subField (c : CmdWord) : BitVec 4 := c.extractLsb' 56 4
/-- `CMD = c[62:60]`. -/
def cmdField (c : CmdWord) : BitVec 3 := c.extractLsb' 60 3
/-- `PEND = c[63]`. -/
def pendField (c : CmdWord) : BitVec 1 := c.extractLsb' 63 1
/-- `DATA = c[127:64]`. -/
def dataField (c : CmdWord) : BitVec 64 := c.extractLsb' 64 64
/-- `c[127:4]`, every bit outside `OP`. -/
def restField (c : CmdWord) : BitVec 124 := c.extractLsb' 4 124

/-! ### Match and mask (R72) -/

/-- A row of the opcode table: a word `c` belongs to it when `c & mask = value`. -/
structure OpRow where
  mnemonic : String
  value : CmdWord
  mask : CmdWord
  deriving DecidableEq, Repr

/-- The match and mask pairs of R72, and the two reserved rows of spec/opcode_table.json (R74). -/
def opRows : List OpRow :=
  [⟨"NOP", 0x00000000000000000000000000000000, 0xFFFFFFFFFFFFFFFFFFFFFFFFFFFFFFFF⟩,
   ⟨"RESET", 0x00000000000000000000000000000001, 0xFFFFFFFFFFFFFFFFFFFFFFFFFFFFFFFF⟩,
   ⟨"PUSH", 0x00000000000000000000000000000002, 0xFFFFFFFFFFFFFFFFFFFFFFFFFFFF00FF⟩,
   ⟨"PARSER_CLEAR", 0x00000000000000000000000000000003, 0xFFFFFFFFFFFFFFFFFFFFFFFFFFFFFFFF⟩,
   ⟨"FRAME_READ", 0x00000000000000000000000000000004, 0xFFFFFFFFFFFFFFFFFFFFFFFFFFFFFFFF⟩,
   ⟨"CRC_CLEAR", 0x00000000000000000000000000000005, 0xFFFFFFFFFFFFFFFFFFFFFFFFFFFFFFFF⟩] ++
  [⟨"CRC_BYTE", 0x00000000000000000000000000000006, 0xFFFFFFFFFFFFFFFFFFFFFFFFFFFF00FF⟩,
   ⟨"CRC_WORD", 0x00000000000000000000000000000007, 0xFFFFFFFFFFFFFFFFFFFFFFFF0000FFFF⟩,
   ⟨"ENC_A", 0x00000000000000000000000000000008, 0x0000000000000000FF000000FFFF000F⟩,
   ⟨"ENC_S", 0x00000000000000000000000000000009, 0x000000000000000000000000FFFF000F⟩,
   ⟨"RESERVED_A_B", 0x0000000000000000000000000000000A, 0x0000000000000000000000000000000E⟩,
   ⟨"RESERVED_C_F", 0x0000000000000000000000000000000C, 0x0000000000000000000000000000000C⟩]

/-- Whether the word `c` belongs to the row (R72). -/
def OpRow.hits (r : OpRow) (c : CmdWord) : Bool := c &&& r.mask == r.value

/-- The mask of a legal opcode: the bits R72 fixes (the reserved opcodes fix none of the rest). -/
def fixedMask (op : BitVec 4) : CmdWord :=
  match op.toNat with
  | 0 | 1 | 3 | 4 | 5 => 0xFFFFFFFFFFFFFFFFFFFFFFFFFFFFFFFF
  | 2 | 6 => 0xFFFFFFFFFFFFFFFFFFFFFFFFFFFF00FF
  | 7 => 0xFFFFFFFFFFFFFFFFFFFFFFFF0000FFFF
  | 8 => 0x0000000000000000FF000000FFFF000F
  | 9 => 0x000000000000000000000000FFFF000F
  | _ => 0x0000000000000000000000000000000F

/-- The command of a word whose opcode is `op` and whose fixed bits are right (R71, R73). -/
def instrOf (op : BitVec 4) (c : CmdWord) : Instr :=
  match op.toNat with
  | 0 => .nop
  | 1 => .reset
  | 2 => .push (bField c)
  | 3 => .parserClear
  | 4 => .frameRead
  | 5 => .crcClear
  | 6 => .crcByte (bField c)
  | 7 => .crcWord (wField c)
  | 8 => .encA (lenField c) (bField c) (addrField c) (dataField c)
  | 9 => .encS (lenField c) (bField c) (addrField c) (subField c) (cmdField c) (pendField c) (dataField c)
  | 10 | 11 => .reservedAB (c.extractLsb' 0 1) (restField c)
  | _ => .reservedCF (c.extractLsb' 0 2) (restField c)

/-- Decoding (R77): the opcode, then the fixed bits. The operand checks of R76 (step 3 of R77) are made when the
command executes. A legal opcode is its own match value (R72), so `c & mask = match` reads `c & mask = zext OP`. -/
def decode (c : CmdWord) : Except Reject Instr :=
  if c &&& fixedMask (opField c) = (opField c).setWidth 128 then .ok (instrOf (opField c) c)
  else .error (.fixedBits (opField c))

/-! ### Encoding -/

/-- A command word from its fields (R70), the most significant field first. -/
def cmdWordOf (data : BitVec 64) (pend : BitVec 1) (cmd : BitVec 3) (sub : BitVec 4) (addr : BitVec 24) (w : Word)
    (b : Byte) (len : BitVec 4) (op : BitVec 4) : CmdWord :=
  data ++ pend ++ cmd ++ sub ++ addr ++ w ++ b ++ len ++ op

/-- The word of a command: its fields in their places and every other bit 0 (R70, R72). -/
def encode : Instr → CmdWord
  | .nop => cmdWordOf 0 0 0 0 0 0 0 0 0x0
  | .reset => cmdWordOf 0 0 0 0 0 0 0 0 0x1
  | .push b => cmdWordOf 0 0 0 0 0 0 b 0 0x2
  | .parserClear => cmdWordOf 0 0 0 0 0 0 0 0 0x3
  | .frameRead => cmdWordOf 0 0 0 0 0 0 0 0 0x4
  | .crcClear => cmdWordOf 0 0 0 0 0 0 0 0 0x5
  | .crcByte b => cmdWordOf 0 0 0 0 0 0 b 0 0x6
  | .crcWord w => cmdWordOf 0 0 0 0 0 w 0 0 0x7
  | .encA len b addr data => cmdWordOf data 0 0 0 addr 0 b len 0x8
  | .encS len b addr sub cmd pend data => cmdWordOf data pend cmd sub addr 0 b len 0x9
  | .reservedAB low rest => rest ++ (0b101 : BitVec 3) ++ low
  | .reservedCF low rest => rest ++ (0b11 : BitVec 2) ++ low

/-- The command the decoder reads from a word of `nbits` bits numbered as spec/opcode_table.json numbers them; the
bits above `nbits` are 0. A command word has 128 bits, so a longer word is refused (log entry 12). -/
def decodeTableWord (nbits w : Nat) : Option Instr :=
  if nbits ≤ 128 then
    match decode (BitVec.ofNat 128 (w % 2 ^ nbits)) with
    | .ok i => some i
    | .error _ => none
  else none

end Sys2Proof
end

