-- ==== Sys2Proof/Config.lean ====
section
/-! DEFINITION. What is fixed when the block is built: the parameters of 00_scope.md R6 as a record, the values R6 gives
them, which builds the sizes of the block admit, and the sizes no parameter changes. State holds the record (log entry
10). `P_VARIANT` has no default (93 I18): it is the field S0 of State, and `Config.variant` is only what `State.reset`
holds there (log entry 4). -/
namespace Sys2Proof

/-- The two frame variants (R3), and `P_VARIANT`: `ASYNC` is encoded 0, `SYNC` is encoded 1 (R23). -/
inductive Variant where
  | async
  | sync
  deriving DecidableEq, Repr

/-- `P_INDEX_ORDER`: which byte of the 16-bit index of an async frame comes first (R79). -/
inductive IndexOrder where
  | be
  | le
  deriving DecidableEq, Repr

/-- The build parameters of R6 other than `P_VARIANT`: configuration fields of the model (R6, 93 I14 to I17). -/
structure Params where
  /-- `P_FUNC`, the function code at byte 1 of an async frame. -/
  func : Byte
  /-- `P_TYPE`, the sub-type code at byte 2 of an async frame. -/
  typeCode : Byte
  /-- `P_SYNC_BYTE`, each byte of the sync trailer. -/
  syncByte : Byte
  /-- `P_SYNC_LEN`, how many bytes the sync trailer has. -/
  syncLen : Nat
  /-- `P_MAX_PAYLOAD`, the longest payload in bytes. -/
  maxPayload : Nat
  /-- `P_CRC_POLY`, the polynomial with its x^16 term implicit (R100). -/
  crcPoly : Word
  /-- `P_CRC_INIT`, the value a CRC starts from (D6). -/
  crcInit : Word
  /-- `P_CRC_XOROUT`, the final exclusive-or of a frame check (D7). -/
  crcXorOut : Word
  /-- `P_FLAG_REQUEST`, the flag byte of a request (D17). -/
  flagRequest : Byte
  /-- `P_INDEX_ORDER` (R79, D32). -/
  indexOrder : IndexOrder
  /-- `P_RESP_CMDS`, the sync command codes that are responses (D18). -/
  respCmds : List (BitVec 3)
  deriving DecidableEq, Repr

/-- The column *value* of R6, which every rule, vector and program of the spec uses. -/
def Params.standard : Params where
  func := 0x2B
  typeCode := 0x0D
  syncByte := 0x55
  syncLen := 4
  maxPayload := 8
  crcPoly := 0x1021
  crcInit := 0x0000
  crcXorOut := 0x0000
  flagRequest := 0x00
  indexOrder := .be
  respCmds := [3, 4, 5, 6]

namespace Config

/-- The variant of the instance that `State.reset` describes. DESIGN CHOICE (unsafe for statements about
`State.reset` alone, log entry 4): the spec gives `P_VARIANT` no default. -/
def variant : Variant := .async

/-- Bytes of an async header (R3, R78). -/
def headerLen : Nat := 13

/-- Bytes of a sync frame: seven words of two bytes (R7, R82). -/
def syncFrameLen : Nat := 14

/-- Bytes of the parse buffer and of the frame latch (R7): the longest async frame of the standard build, 13 + 8 + 4. -/
abbrev bufLen : Nat := 25

/-- Payload bytes that the `DATA` field, a sync frame and the field record hold (R70, R86, R160). -/
def dataLen : Nat := 8

end Config

/-- The builds that the sizes of the block admit (DEDUCED, log entry 15): every payload fits `DATA` and the field record
(R70, R160), the longest async frame fits the 25 bytes of `PBUF` and `FL` (R7), and there is a last sync byte to finish a
frame on (R148, R149). -/
structure Params.Fits (ps : Params) : Prop where
  payload : ps.maxPayload ≤ Config.dataLen
  frame : Config.headerLen + ps.maxPayload + ps.syncLen ≤ Config.bufLen
  trailer : 0 < ps.syncLen

end Sys2Proof
end

