-- ==== Sys2Proof/Machine/State.lean ====
section
/-! DEFINITION. The state of one instance of the block (10_state.md R35), the response record (60_exceptions.md R200),
the reasons a step can stop, and the state after reset (70_reset_and_hazards.md R220). -/
namespace Sys2Proof.Machine

/-- `PST`, the parse state (R26). Its 3-bit code is `parseCode`; the codes 5, 6 and 7 are never held
(R26, 93 I11; log entry 11). -/
inductive ParseState where
  | awaitFunc
  | awaitType
  | awaitLen
  | awaitTrailer
  | complete
  deriving DecidableEq, Repr

/-- The seven status codes (R201). The 3-bit code is `statusCode`; the value 7 is never returned. -/
inductive Status where
  | ok
  | needMore
  | complete
  | framingError
  | invalidArgument
  | notSupported
  | invalidState
  deriving DecidableEq, Repr

/-- 25 bytes: the parse buffer, the frame latch, and a frame in a response (R7, R27, R30, R200). -/
abbrev Buf := Vector Byte Config.bufLen

/-- The field record `F(FL)` of a latched frame (R160); a field the variant does not have is 0. -/
structure Fields where
  node : BitVec 12
  node2 : BitVec 8
  subnode : BitVec 4
  flag : BitVec 8
  index : BitVec 16
  subindex : BitVec 8
  address : BitVec 24
  cmd : BitVec 3
  pending : BitVec 1
  length : BitVec 16
  payload : Vector Byte 8
  crc : BitVec 16
  isResponse : BitVec 1
  deriving DecidableEq, Repr

/-- The response of a command (R200); a field the command does not set is 0. -/
structure Response where
  status : Status
  stat : BitVec 16
  feState : BitVec 3
  crc : BitVec 16
  outLen : BitVec 5
  out : Buf
  frameLen : BitVec 5
  frame : Buf
  fields : Fields
  deriving DecidableEq, Repr

/-- Everything the spec gives an instance of the block (R35, S0 to S7; S8 is a ROM, log entry 9), the build parameters of
R6 (log entry 10), and two fields of the model's own: the commands issued and not yet taken, and the responses given (log
entries 1 and 3). -/
structure State where
  /-- The build parameters of R6 but `P_VARIANT`. Fixed when the block is built: no command changes them. -/
  params : Params
  /-- S0 `P_VARIANT` (R23). No command changes it. -/
  variant : Variant
  /-- S1 `CRC` (R24). -/
  crc : Word
  /-- S2 `PST` (R26). -/
  pst : ParseState
  /-- S3 `PCNT` (R25). -/
  pcnt : BitVec 5
  /-- S4 `PBUF[0..24]` (R27). -/
  pbuf : Buf
  /-- S5 `FL_VALID` (R30). -/
  flValid : Bool
  /-- S6 `FL_LEN` (R30). -/
  flLen : BitVec 5
  /-- S7 `FL[0..24]` (R30). -/
  fl : Buf
  /-- The model's own: the command words the client has issued, in order (R9, R62, R217). -/
  cmds : List CmdWord
  /-- The model's own: the responses the client has got, oldest first (R62, R200). -/
  resps : List Response
  deriving DecidableEq, Repr

/-- Reasons the machine stops. The spec gives the block none (R210): both are raised only in states that break the
invariant of R28 and R31, which no run reaches (log entry 8). -/
inductive Fault where
  /-- `PUSH` would store its byte at `PBUF[25]` or beyond, which does not exist (R31: it never does). Raised by
  PUSH. Safe: the model stops where no rule says what happens. -/
  | bufferEnd
  /-- `PUSH` stored a byte at a position past the end of the frame, for which no rule gives a check (R144 to R149).
  Raised by PUSH. Safe: the model stops where no rule says what happens. -/
  | noRuleForPosition
  deriving DecidableEq, Repr

/-- Reasons for no meaning at all. -/
inductive Refusal where
  /-- The instruction has no meaning in this model. Raised by an arm of `exec` only; no arm raises it, since every
  row of the opcode table has its meaning. Safe. -/
  | notModelled (mnemonic : String)
  deriving DecidableEq, Repr

/-- What `PBUF` and `FL` hold after power-on: zero bytes. DESIGN CHOICE (unsafe, log entry 5): the spec leaves these
bytes unspecified and no rule reads them (R27, R30, R220). -/
def Buf.zero : Buf := Vector.replicate Config.bufLen 0

/-- An instance of the given build and variant after power-on (R220, R35). -/
def State.powerOn (ps : Params) (v : Variant) : State where
  params := ps
  variant := v
  crc := ps.crcInit
  pst := .awaitFunc
  pcnt := 0
  pbuf := Buf.zero
  flValid := false
  flLen := 0
  fl := Buf.zero
  cmds := []
  resps := []

/-- The machine right after reset (R220), built with the values of R6: no command issued and no response given yet. -/
def State.reset : State := State.powerOn Params.standard Config.variant

end Sys2Proof.Machine
end

