-- ==== Sys2Proof/Machine/Bytes.lean ====
section
/-! DEFINITION. Bytes, words and 25-byte buffers: the byte order of the wire (20_memory.md R55) and the reads and
writes of `PBUF` and `FL` (R51). -/
namespace Sys2Proof.Machine

/-- `hi ++ lo`: the word whose more significant byte is `hi` (R8, R55). -/
def wordOf (hi lo : Byte) : Word := hi ++ lo

/-- `w[15:8]`. -/
def hiByte (w : Word) : Byte := w.extractLsb' 8 8

/-- `w[7:0]`. -/
def loByte (w : Word) : Byte := w.extractLsb' 0 8

/-- The two wire bytes of a word, high byte first (R55). -/
def wireBytes (w : Word) : List Byte := [hiByte w, loByte w]

/-- Byte `i` of a buffer. There is no byte 25; no rule reads one (R31). -/
def byteAt (b : Buf) (i : Nat) : Byte := b[i]?.getD 0

/-- `B[i] <- v` on a buffer. -/
def setByte (b : Buf) (i : Nat) (v : Byte) : Buf := b.setIfInBounds i v

/-- Word `i` of a sync frame held in a buffer, `B[2i] ++ B[2i+1]` (R82, R146, R156). -/
def wordAt (b : Buf) (i : Nat) : Word := wordOf (byteAt b (2 * i)) (byteAt b (2 * i + 1))

/-- `dst[0..n-1] <- src[0..n-1]`; the other bytes of `dst` stay (R148; log entry 7). -/
def copyFront (src dst : Buf) (n : Nat) : Buf :=
  Vector.ofFn fun i => if i.val < n then byteAt src i.val else byteAt dst i.val

/-- The first `n` bytes of a buffer, zero after them: a frame in a response (R200). -/
def frontBytes (b : Buf) (n : Nat) : Buf :=
  Vector.ofFn fun i => if i.val < n then byteAt b i.val else 0

/-- The bytes of a list in order, zero after them: `out` of a response (R200). -/
def bufOf (l : List Byte) : Buf := Vector.ofFn fun i => l.getD i.val 0

/-- The declared payload length of an async frame held in a buffer, `B[11] ++ B[12]` (R80, R147, R155). -/
def declaredLen (b : Buf) : Nat := (wordOf (byteAt b 11) (byteAt b 12)).toNat

end Sys2Proof.Machine
end

