-- ==== Sys2Proof/Machine/Flags.lean ====
section
/-! DEFINITION. The block has no flags (10_state.md R22). What stands in their place: the status and parse-state codes
(R26, R201) and the `STAT` view carried by every response (R32). -/
namespace Sys2Proof.Machine

/-- The 3-bit code of a parse state (R26). -/
def parseCode : ParseState → BitVec 3
  | .awaitFunc => 0
  | .awaitType => 1
  | .awaitLen => 2
  | .awaitTrailer => 3
  | .complete => 4

/-- The 3-bit code of a status (R201). -/
def statusCode : Status → BitVec 3
  | .ok => 0
  | .needMore => 1
  | .complete => 2
  | .framingError => 3
  | .invalidArgument => 4
  | .notSupported => 5
  | .invalidState => 6

/-- The encoding of `P_VARIANT` (R23). -/
def variantCode : Variant → BitVec 1
  | .async => 0
  | .sync => 1

/-- `STAT`, from bit 15 down: 0, `P_VARIANT`, `FL_LEN`, `FL_VALID`, `PST`, `PCNT` (R32). -/
def statWord (s : State) : BitVec 16 :=
  (0 : BitVec 1) ++ variantCode s.variant ++ s.flLen ++ BitVec.ofBool s.flValid ++ parseCode s.pst ++ s.pcnt

end Sys2Proof.Machine
end

