-- ==== Sys2Proof/Machine/Operands.lean ====
section
/-! DEFINITION. Operand forms of the encoder commands: the payload bytes of `DATA`, the operand checks of
30_encoding.md R76, and the padding of a sync payload (R86). -/
namespace Sys2Proof.Machine

/-- `D[k] = c[71 + 8k : 64 + 8k]`, byte `k` of `DATA` counted from its least significant byte (R58, R73). -/
def payloadByte (data : BitVec 64) (k : Nat) : Byte := data.extractLsb' (8 * k) 8

/-- `D[0], ..., D[LEN-1]`. -/
def payloadBytes (len : BitVec 4) (data : BitVec 64) : List Byte := (List.range len.toNat).map (payloadByte data)

/-- `LEN > 8 or (exists k, LEN <= k <= 7, D[k] != 0)`, the 8 being `P_MAX_PAYLOAD` (R76, R120, R122). -/
def payloadBad (ps : Params) (len : BitVec 4) (data : BitVec 64) : Bool :=
  decide (ps.maxPayload < len.toNat) ||
    (List.range 8).any fun k => decide (len.toNat ≤ k) && decide (payloadByte data k ≠ 0)

/-- The operand check of `ENC_A` (R76, R120). -/
def encAOperandsBad (ps : Params) (len : BitVec 4) (data : BitVec 64) : Bool := payloadBad ps len data

/-- The operand check of `ENC_S` (R76, R122). -/
def encSOperandsBad (ps : Params) (len : BitVec 4) (addr : BitVec 24) (cmd : BitVec 3) (data : BitVec 64) : Bool :=
  payloadBad ps len data || decide (0xFFF < addr.toNat) || decide (cmd = 7)

/-- `P[k]`: payload byte `k` of a sync frame, zero at and after `LEN` (R86, R122). -/
def paddedByte (len : BitVec 4) (data : BitVec 64) (k : Nat) : Byte :=
  if k < len.toNat then payloadByte data k else 0

end Sys2Proof.Machine
end

