-- ==== Sys2Proof/Machine/Frame.lean ====
section
/-! DEFINITION. The wire frames (30_encoding.md R78 to R89) and the field accessors of a latched frame
(42_parser.md R155 to R160). -/
namespace Sys2Proof.Machine

/-- Bytes 6 and 7 of an async frame (R79). -/
def indexBytes (order : IndexOrder) (idx : Word) : List Byte :=
  match order with
  | .be => [hiByte idx, loByte idx]
  | .le => [loByte idx, hiByte idx]

/-- The 16-bit index read from bytes 6 and 7 of an async frame (R79, R155). -/
def indexFrom (order : IndexOrder) (b6 b7 : Byte) : Word :=
  match order with
  | .be => wordOf b6 b7
  | .le => wordOf b7 b6

/-- `index = address[15:0]` (R89). -/
def addrIndex (addr : BitVec 24) : Word := addr.extractLsb' 0 16

/-- `subindex = address[23:16]` (R89). -/
def addrSubindex (addr : BitVec 24) : Byte := addr.extractLsb' 16 8

/-- The 13 header bytes of an async frame of `n` payload bytes (R78, R120). -/
def asyncHeader (ps : Params) (node : Byte) (addr : BitVec 24) (n : Nat) : List Byte :=
  [node, ps.func, ps.typeCode, ps.flagRequest, 0x00, node] ++ indexBytes ps.indexOrder (addrIndex addr) ++
    [addrSubindex addr, 0x00, 0x00, 0x00, BitVec.ofNat 8 n]

/-- The async frame the encoder emits: header, payload, sync trailer (R78, R120, R121). -/
def asyncFrame (ps : Params) (node : Byte) (addr : BitVec 24) (payload : List Byte) : List Byte :=
  asyncHeader ps node addr payload.length ++ payload ++ List.replicate ps.syncLen ps.syncByte

/-- `w0`: node in bits 15 to 4, subnode in bits 3 to 0 (R83, R122). -/
def headerHigh (node : Byte) (sub : BitVec 4) : Word := (node.setWidth 16 <<< 4) ||| sub.setWidth 16

/-- `w1`: address in bits 15 to 4, command code in bits 3 to 1, pending in bit 0 (R84, R122). -/
def headerLow (addr : BitVec 24) (cmd : BitVec 3) (pend : BitVec 1) : Word :=
  ((addr.extractLsb' 0 12).setWidth 16 <<< 4) ||| (cmd.setWidth 16 <<< 1) ||| pend.setWidth 16

/-- `w0` to `w5` of the sync frame the encoder emits; `p k` is padded payload byte `k` (R82 to R86, R122). -/
def syncWords (node : Byte) (sub : BitVec 4) (addr : BitVec 24) (cmd : BitVec 3) (pend : BitVec 1) (p : Nat → Byte) :
    List Word :=
  [headerHigh node sub, headerLow addr cmd pend, wordOf (p 0) (p 1), wordOf (p 2) (p 3), wordOf (p 4) (p 5),
    wordOf (p 6) (p 7)]

/-- The wire bytes of six words followed by their frame check (R82, R87, R123). -/
def syncFrame (ps : Params) (ws : List Word) : List Byte := (ws ++ [crc16 ps ws]).flatMap wireBytes

/-- Accessors of an async frame (R155, R157); a field the variant does not have is 0 (R160). -/
def asyncFields (ps : Params) (fl : Buf) : Fields :=
  let idx := indexFrom ps.indexOrder (byteAt fl 6) (byteAt fl 7)
  let n := declaredLen fl
  { node := (byteAt fl 0).setWidth 12
    node2 := byteAt fl 5
    subnode := 0
    flag := byteAt fl 3
    index := idx
    subindex := byteAt fl 8
    address := byteAt fl 8 ++ idx
    cmd := 0
    pending := 0
    length := BitVec.ofNat 16 n
    payload := Vector.ofFn fun k => if k.val < n then byteAt fl (13 + k.val) else 0
    crc := 0
    isResponse := BitVec.ofBool (decide (byteAt fl 3 ≠ ps.flagRequest)) }

/-- Accessors of a sync frame (R156, R158); a field the variant does not have is 0 (R160). -/
def syncFields (ps : Params) (fl : Buf) : Fields :=
  let w0 := wordAt fl 0
  let w1 := wordAt fl 1
  { node := w0.extractLsb' 4 12
    node2 := 0
    subnode := w0.extractLsb' 0 4
    flag := 0
    index := (w1.extractLsb' 4 12).setWidth 16
    subindex := 0
    address := (w1.extractLsb' 4 12).setWidth 24
    cmd := w1.extractLsb' 1 3
    pending := w1.extractLsb' 0 1
    length := 8
    payload := Vector.ofFn fun k => byteAt fl (4 + k.val)
    crc := wordAt fl 6
    isResponse := BitVec.ofBool (decide (w1.extractLsb' 1 3 ∈ ps.respCmds)) }

/-- The field record `F(FL)` (R159, R160). -/
def frameFields (ps : Params) (v : Variant) (fl : Buf) : Fields :=
  match v with
  | .async => asyncFields ps fl
  | .sync => syncFields ps fl

end Sys2Proof.Machine
end

