-- ==== Sys2Proof/Machine/Ops.lean ====
section
/-! DEFINITION. The named operations on the state: taking a command, answering one, and what the parser does to
`PBUF`, `PCNT`, `PST` and the latch. The block has no memory, no traps and no modes (R50, R205, R209), so there is no
memory operation and no exception entry or return; the shared answers to a refused command stand in their place. -/
namespace Sys2Proof.Machine

/-! ### The client's commands (R9, R21, R62, R217) -/

/-- The next command the client issued, and the state without it (log entry 1). -/
def takeCommand (s : State) : Option (CmdWord × State) :=
  match s.cmds with
  | [] => none
  | c :: rest => some (c, { s with cmds := rest })

/-- The client issues `c` as the very next command (log entry 1). -/
def placeCommand (c : CmdWord) (s : State) : State := { s with cmds := c :: s.cmds }

/-- No command has been issued: nothing happens between steps (R9; log entry 2). -/
def idle (s : State) : Host.Outcome State Fault Refusal := .next s

/-! ### Responses (R200) -/

/-- A field record with every field 0. -/
def blankFields : Fields where
  node := 0
  node2 := 0
  subnode := 0
  flag := 0
  index := 0
  subindex := 0
  address := 0
  cmd := 0
  pending := 0
  length := 0
  payload := Vector.replicate 8 0
  crc := 0
  isResponse := 0

/-- A response with the given status and every other field 0. -/
def blankResponse (st : Status) : Response where
  status := st
  stat := 0
  feState := 0
  crc := 0
  outLen := 0
  out := Buf.zero
  frameLen := 0
  frame := Buf.zero
  fields := blankFields

/-- `respond(...)`: the response carries `STAT` of the state after the command (R9, R32, R200). -/
def respond (s : State) (r : Response) : State := { s with resps := s.resps ++ [{ r with stat := statWord s }] }

/-- Ends a command: its state and its response (R9). -/
def answer (s : State) (r : Response) : Host.Outcome State Fault Refusal := .next (respond s r)

/-- `respond(OK)` with nothing else set. -/
def answerOk (s : State) : Host.Outcome State Fault Refusal := answer s (blankResponse .ok)

/-- A word that spells no command: `NOT_SUPPORTED`, no state written, the block goes on (R182, R204). -/
def answerNotSupported (s : State) : Host.Outcome State Fault Refusal := answer s (blankResponse .notSupported)

/-- A refused operand value: `INVALID_ARGUMENT`, no state written (R76, R204). -/
def answerInvalidArgument (s : State) : Host.Outcome State Fault Refusal := answer s (blankResponse .invalidArgument)

/-- An empty latch: `INVALID_STATE`, no state written (R161, R204). -/
def answerInvalidState (s : State) : Host.Outcome State Fault Refusal := answer s (blankResponse .invalidState)

/-- `respond(OK, crc = CRC)` (R105 to R107). -/
def answerCrc (s : State) : Host.Outcome State Fault Refusal := answer s { blankResponse .ok with crc := s.crc }

/-- `respond(OK, out_len, out)` (R120, R122): `emit` of R9. -/
def answerFrameBytes (s : State) (bytes : List Byte) : Host.Outcome State Fault Refusal :=
  answer s { blankResponse .ok with outLen := BitVec.ofNat 5 bytes.length, out := bufOf bytes }

/-- `respond(st, frame_len = FL_LEN, frame = FL[0..FL_LEN-1], fields = F(FL))` (R140, R161). -/
def answerLatched (s : State) (st : Status) : Host.Outcome State Fault Refusal :=
  answer s
    { blankResponse st with
      frameLen := s.flLen
      frame := frontBytes s.fl s.flLen.toNat
      fields := frameFields s.params s.variant s.fl }

/-! ### Reset and the CRC register -/

/-- `CRC <- P_CRC_INIT; PST <- AWAIT_FUNC; PCNT <- 0; FL_VALID <- 0; FL_LEN <- 0` (R181). The bytes of `PBUF` and `FL`
are not written (R35; log entry 6), nor are the build parameters. -/
def resetBlock (s : State) : State :=
  { s with crc := s.params.crcInit, pst := .awaitFunc, pcnt := 0, flValid := false, flLen := 0 }

/-- `CRC <- v` (R24, R105 to R107). -/
def setCrc (s : State) (v : Word) : State := { s with crc := v }

/-! ### The parser (R140 to R150) -/

/-- `PCNT <- 0; PST <- AWAIT_FUNC` (R141, R162). -/
def clearParser (s : State) : State := { s with pcnt := 0, pst := .awaitFunc }

/-- The restart after a completed frame (R141). -/
def restart (s : State) : State := if s.pst = .complete then clearParser s else s

/-- `PBUF[p] <- b; PCNT <- p + 1` (R142). -/
def storeByte (s : State) (p : Nat) (b : Byte) : State :=
  { s with pbuf := setByte s.pbuf p b, pcnt := BitVec.ofNat 5 (p + 1) }

/-- The retry of a failing byte as a fresh start: `PBUF[0] <- b; PCNT <- 1; PST <- AWAIT_FUNC` (R143). -/
def retryByte (s : State) (b : Byte) : State :=
  { s with pbuf := setByte s.pbuf 0 b, pcnt := 1, pst := .awaitFunc }

/-- `PST <- COMPLETE; FL[0..PCNT-1] <- PBUF[0..PCNT-1]; FL_LEN <- PCNT; FL_VALID <- 1` (R148). -/
def latchFrame (s : State) : State :=
  { s with
    pst := .complete
    fl := copyFront s.pbuf s.fl s.pcnt.toNat
    flLen := s.pcnt
    flValid := true }

end Sys2Proof.Machine
end

