-- ==== Sys2Proof/Machine/Control.lean ====
section
/-! DEFINITION. The control commands and the reserved opcodes (43_control.md). -/
namespace Sys2Proof.Machine

/-- `NOP` (R180): it leaves every parser state, `COMPLETE` included. -/
def execNop (s : State) : Host.Outcome State Fault Refusal := answerOk s

/-- `RESET` (R181). -/
def execReset (s : State) : Host.Outcome State Fault Refusal := answerOk (resetBlock s)

/-- Reserved opcodes 0xA and 0xB (R182). -/
def execReservedAB (s : State) : Host.Outcome State Fault Refusal := answerNotSupported s

/-- Reserved opcodes 0xC to 0xF (R182). -/
def execReservedCF (s : State) : Host.Outcome State Fault Refusal := answerNotSupported s

end Sys2Proof.Machine
end

