-- ==== Sys2Proof/Machine/CrcUnit.lean ====
section
/-! DEFINITION. The commands of the CRC unit (40_crc.md section 4). None reads or writes the parser or the latch. -/
namespace Sys2Proof.Machine

/-- `CRC_CLEAR` (R105). -/
def execCrcClear (s : State) : Host.Outcome State Fault Refusal := answerCrc (setCrc s s.params.crcInit)

/-- `CRC_BYTE b` (R106). -/
def execCrcByte (b : Byte) (s : State) : Host.Outcome State Fault Refusal :=
  answerCrc (setCrc s (step8 s.params.crcPoly s.crc b))

/-- `CRC_WORD w` (R107). -/
def execCrcWord (w : Word) (s : State) : Host.Outcome State Fault Refusal :=
  answerCrc (setCrc s (step16 s.params.crcPoly s.crc w))

end Sys2Proof.Machine
end

