-- ==== Sys2Proof/Machine/Encoder.lean ====
section
/-! DEFINITION. The frame encoder (41_encoder.md). Neither command writes any state or reads `CRC` (R124, R125). -/
namespace Sys2Proof.Machine

/-- `ENC_A` (R120). -/
def execEncA (len : BitVec 4) (b : Byte) (addr : BitVec 24) (data : BitVec 64) (s : State) :
    Host.Outcome State Fault Refusal :=
  if encAOperandsBad s.params len data then answerInvalidArgument s
  else answerFrameBytes s (asyncFrame s.params b addr (payloadBytes len data))

/-- `ENC_S` (R122). -/
def execEncS (len : BitVec 4) (b : Byte) (addr : BitVec 24) (sub : BitVec 4) (cmd : BitVec 3) (pend : BitVec 1)
    (data : BitVec 64) (s : State) : Host.Outcome State Fault Refusal :=
  if encSOperandsBad s.params len addr cmd data then answerInvalidArgument s
  else answerFrameBytes s (syncFrame s.params (syncWords b sub addr cmd pend (paddedByte len data)))

end Sys2Proof.Machine
end

