-- ==== Sys2Proof/Machine/Parser.lean ====
section
/-! DEFINITION. The frame parser (42_parser.md): the checks, the state progression, and the three commands. -/
namespace Sys2Proof.Machine

/-- The result of a check (R140). -/
inductive Check where
  | pass
  | done
  | fail
  deriving DecidableEq, Repr

/-- `PASS` when the byte is the required one, `FAIL` otherwise. -/
def requireByte (b want : Byte) : Check := if b = want then .pass else .fail

/-- The sync trailer check at position `p` of a frame of declared length `n` (R149); `none` past the frame's end,
where no rule gives a check. -/
def checkTrailer (ps : Params) (n p : Nat) (b : Byte) : Option Check :=
  if p < Config.headerLen + n then some .pass
  else if p < Config.headerLen + n + ps.syncLen then
    if b ≠ ps.syncByte then some .fail
    else if p + 1 = Config.headerLen + n + ps.syncLen then some .done
    else some .pass
  else none

/-- The check of an async byte `b` stored at position `p` (R144, R145, R149). -/
def checkAsync (ps : Params) (buf : Buf) (p : Nat) (b : Byte) : Option Check :=
  if p = 0 then some .pass
  else if p = 1 then some (requireByte b ps.func)
  else if p = 2 then some (requireByte b ps.typeCode)
  else if p < 12 then some .pass
  else if p = 12 then some (if declaredLen buf ≤ ps.maxPayload then .pass else .fail)
  else checkTrailer ps (declaredLen buf) p b

/-- The first six words of a sync frame held in a buffer (R146). -/
def checkedWords (buf : Buf) : List Word :=
  [wordAt buf 0, wordAt buf 1, wordAt buf 2, wordAt buf 3, wordAt buf 4, wordAt buf 5]

/-- The check of a sync byte stored at position `p` (R146); `none` past the frame's end. -/
def checkSync (ps : Params) (buf : Buf) (p : Nat) : Option Check :=
  if p < 13 then some .pass
  else if p = 13 then some (if crc16 ps (checkedWords buf) = wordAt buf 6 then .done else .fail)
  else none

/-- `check(P_VARIANT, p, b)`, with the buffer after the store (R140, R142). -/
def check (ps : Params) (v : Variant) (buf : Buf) (p : Nat) (b : Byte) : Option Check :=
  match v with
  | .async => checkAsync ps buf p b
  | .sync => checkSync ps buf p

/-- `stage(P_VARIANT, PCNT)` (R150). -/
def stage (v : Variant) (n : Nat) : ParseState :=
  match v with
  | .async => if n ≤ 1 then .awaitFunc else if n = 2 then .awaitType else if n ≤ 12 then .awaitLen else .awaitTrailer
  | .sync => if n ≤ 1 then .awaitFunc else if n ≤ 3 then .awaitType else if n ≤ 11 then .awaitLen else .awaitTrailer

/-- `PST <- stage(P_VARIANT, PCNT)` (R140, R150). -/
def advanceStage (s : State) : State := { s with pst := stage s.variant s.pcnt.toNat }

/-- What `PUSH` does once its byte is stored and checked (R140): `s` is the state after the store. -/
def pushResult (s : State) (b : Byte) : Check → Host.Outcome State Fault Refusal
  | .fail => answer (retryByte s b) { blankResponse .framingError with feState := parseCode s.pst }
  | .done => answerLatched (latchFrame s) .complete
  | .pass => answer (advanceStage s) (blankResponse .needMore)

/-- `PUSH` from a state with no completed frame left to restart from: store, check, respond (R140, R142). -/
def pushByte (b : Byte) (s : State) : Host.Outcome State Fault Refusal :=
  if s.pcnt.toNat < Config.bufLen then
    match check s.params s.variant (setByte s.pbuf s.pcnt.toNat b) s.pcnt.toNat b with
    | some k => pushResult (storeByte s s.pcnt.toNat b) b k
    | none => .fault .noRuleForPosition
  else .fault .bufferEnd

/-- `PUSH b` (R140, R141). -/
def execPush (b : Byte) (s : State) : Host.Outcome State Fault Refusal := pushByte b (restart s)

/-- `PARSER_CLEAR` (R162). -/
def execParserClear (s : State) : Host.Outcome State Fault Refusal := answerOk (clearParser s)

/-- `FRAME_READ` (R161). -/
def execFrameRead (s : State) : Host.Outcome State Fault Refusal :=
  if s.flValid then answerLatched s .ok else answerInvalidState s

end Sys2Proof.Machine
end

