-- ==== Sys2Proof/Machine/Dispatch.lean ====
section
/-! DEFINITION. The dispatch: one arm for each command, each one call of its meaning. -/
namespace Sys2Proof.Machine

def exec (i : Instr) (s : State) : Host.Outcome State Fault Refusal :=
  match i with
  | .nop => Sys2Proof.Machine.execNop s
  | .reset => Sys2Proof.Machine.execReset s
  | .push b => Sys2Proof.Machine.execPush b s
  | .parserClear => Sys2Proof.Machine.execParserClear s
  | .frameRead => Sys2Proof.Machine.execFrameRead s
  | .crcClear => Sys2Proof.Machine.execCrcClear s
  | .crcByte b => Sys2Proof.Machine.execCrcByte b s
  | .crcWord w => Sys2Proof.Machine.execCrcWord w s
  | .encA len b addr data => Sys2Proof.Machine.execEncA len b addr data s
  | .encS len b addr sub cmd pend data => Sys2Proof.Machine.execEncS len b addr sub cmd pend data s
  | .reservedAB _ _ => Sys2Proof.Machine.execReservedAB s
  | .reservedCF _ _ => Sys2Proof.Machine.execReservedCF s

end Sys2Proof.Machine
end

