-- ==== Sys2Proof/Machine/Step.lean ====
section
/-! DEFINITION. One step: the block takes the client's next command word, decodes it and executes it (00_scope.md R9).
A word that spells no command is answered `NOT_SUPPORTED` (R182). -/
namespace Sys2Proof.Machine

/-- One step (R9). With no command issued nothing happens (log entry 2). -/
def step (s : State) : Host.Outcome State Fault Refusal :=
  match takeCommand s with
  | none => idle s
  | some (c, t) =>
    match decode c with
    | .ok i => exec i t
    | .error _ => answerNotSupported t

/-- `s` with the command word of `nbits` bits whose bits are `w` issued as the very next command (log entry 1). -/
def State.withFetchWord (s : State) (nbits w : Nat) : State := placeCommand (BitVec.ofNat 128 (w % 2 ^ nbits)) s

end Sys2Proof.Machine
end

