-- ==== Sys2Proof/Machine/Assembler.lean ====
section
/-! DEFINITION. The assembler forms and pseudo-commands of 30_encoding.md R90 and R91, as functions to commands, and
running a list of commands in order. -/
namespace Sys2Proof.Machine

/-- `DATA` holding the listed bytes, byte `k` at bits `8k + 7` down to `8k` (R58, R90). -/
def packData : List Byte → BitVec 64
  | [] => 0
  | d :: rest => d.setWidth 64 ||| (packData rest <<< 8)

/-- `ENC_A node=.., addr=.., data=[..]`: `LEN` is the number of bytes listed (R90). -/
def asmEncA (node : Byte) (addr : BitVec 24) (data : List Byte) : Instr :=
  .encA (BitVec.ofNat 4 data.length) node addr (packData data)

/-- `ENC_S node=.., sub=.., addr=.., cmd=.., pend=.., data=[..]` (R90). -/
def asmEncS (node : Byte) (sub : BitVec 4) (addr : BitVec 24) (cmd : BitVec 3) (pend : BitVec 1) (data : List Byte) :
    Instr :=
  .encS (BitVec.ofNat 4 data.length) node addr sub cmd pend (packData data)

/-- `PUSHS b0 ... bk` (R91). -/
def pushS (bs : List Byte) : List Instr := bs.map .push

/-- `CRC_WORDS w0 ... wk` (R91). -/
def crcWords (ws : List Word) : List Instr := .crcClear :: ws.map .crcWord

/-- `CRC_BYTES b0 ... bk` (R91). -/
def crcBytes (bs : List Byte) : List Instr := .crcClear :: bs.map .crcByte

/-- Commands executed in order (R62, R91), stopping at the first that does not answer a next state. -/
def execAll : List Instr → State → Host.Outcome State Fault Refusal
  | [], s => .next s
  | i :: rest, s =>
    match exec i s with
    | .next t => execAll rest t
    | .fault r => .fault r
    | .refused r => .refused r

end Sys2Proof.Machine
end

