-- ==== Sys2Proof/Safety.lean ====
section
/-! DEFINITION. The terms the claims are stated in: the block apart from the client's lists, the part of the state a
rule can read, a valid frame, and the invariant of 10_state.md R28 to R31. -/
namespace Sys2Proof.Machine

/-- The block alone (R35): the client's two lists left out. Two states with equal `blockOf` agree on the
build parameters, `P_VARIANT`, `CRC`, `PST`, `PCNT`, `PBUF`, `FL_VALID`, `FL_LEN` and `FL`. -/
def blockOf (s : State) : State := { s with cmds := [], resps := [] }

/-- The state with every byte that no rule reads set to zero: `PBUF` at and above `PCNT` (R27), `FL` beyond `FL_LEN`
and while `FL_VALID = 0` (R30, 93 I10). -/
def observable (s : State) : State :=
  { s with
    pbuf := frontBytes s.pbuf s.pcnt.toNat
    fl := if s.flValid then frontBytes s.fl s.flLen.toNat else Buf.zero }

/-- From `s` to `t` exactly one response, `r`, was given, with `STAT` of `t`, and no command was taken (R200, R32). -/
def Responded (s t : State) (r : Response) : Prop :=
  t.cmds = s.cmds ∧ t.resps = s.resps ++ [{ r with stat := statWord t }]

/-- The responses given since `s`, which has fewer responses than `t` (R62). -/
def newResponses (s t : State) : List Response := t.resps.drop s.resps.length

/-- A whole valid async frame in the first `len` bytes of a buffer (R78, R144, R145, R149). -/
structure AsyncFrameOk (ps : Params) (buf : Buf) (len : Nat) : Prop where
  payload_fits : declaredLen buf ≤ ps.maxPayload
  total : len = Config.headerLen + declaredLen buf + ps.syncLen
  func : byteAt buf 1 = ps.func
  typeCode : byteAt buf 2 = ps.typeCode
  trailer : ∀ k, k < ps.syncLen → byteAt buf (Config.headerLen + declaredLen buf + k) = ps.syncByte

/-- A whole valid sync frame in the first `len` bytes of a buffer (R82, R87, R146). -/
structure SyncFrameOk (ps : Params) (buf : Buf) (len : Nat) : Prop where
  total : len = Config.syncFrameLen
  check : crc16 ps (checkedWords buf) = wordAt buf 6

/-- A whole valid frame of the variant (R148). -/
def FrameOk (ps : Params) (v : Variant) (buf : Buf) (len : Nat) : Prop :=
  match v with
  | .async => AsyncFrameOk ps buf len
  | .sync => SyncFrameOk ps buf len

/-- What the first `n` bytes of an unfinished async frame satisfy: every check of a position below `n` has passed
(R144, R145, R149) and the frame is not finished (R28). -/
structure AsyncPartOk (ps : Params) (buf : Buf) (n : Nat) : Prop where
  func : 2 ≤ n → byteAt buf 1 = ps.func
  typeCode : 3 ≤ n → byteAt buf 2 = ps.typeCode
  payload_fits : 13 ≤ n → declaredLen buf ≤ ps.maxPayload
  unfinished : 13 ≤ n → n < Config.headerLen + declaredLen buf + ps.syncLen
  trailer : 13 ≤ n → ∀ i, Config.headerLen + declaredLen buf ≤ i → i < n → byteAt buf i = ps.syncByte

/-- What the first `n` bytes of an unfinished frame of the variant satisfy. A sync frame has no check before its last
byte (R146). -/
def PartOk (ps : Params) (v : Variant) (buf : Buf) (n : Nat) : Prop :=
  match v with
  | .async => AsyncPartOk ps buf n
  | .sync => n < Config.syncFrameLen

/-- The invariant of the block. -/
structure BlockInv (s : State) : Prop where
  /-- R7: the build fits the sizes of the block (log entry 15). -/
  fits : s.params.Fits
  /-- R28: while no frame is complete, `PST` is the function of `PCNT` that `stage` tabulates, and `PCNT` is within
  its table, every byte held having passed its check. -/
  building : s.pst ≠ .complete → s.pst = stage s.variant s.pcnt.toNat ∧ PartOk s.params s.variant s.pbuf s.pcnt.toNat
  /-- R29: in `COMPLETE` the buffer holds the latched frame. -/
  completed : s.pst = .complete →
    s.flValid = true ∧ s.pcnt = s.flLen ∧ ∀ i, i < s.pcnt.toNat → byteAt s.pbuf i = byteAt s.fl i
  /-- R30, R148: what is latched is a valid frame. -/
  latched : s.flValid = true → FrameOk s.params s.variant s.fl s.flLen.toNat
  /-- R30, R220: an empty latch has length 0. -/
  empty : s.flValid = false → s.flLen = 0

/-- What an accepted byte that does not finish the frame does: stored at `PCNT`, `PCNT` one more, the new `PST` as
given, `NEED_MORE`, and nothing else changed (R142, R150). -/
def PushAccepts (s : State) (b : Byte) (st : ParseState) : Prop :=
  ∃ t, exec (.push b) s = .next t ∧
    blockOf t = { blockOf s with
      pst := st, pcnt := BitVec.ofNat 5 (s.pcnt.toNat + 1), pbuf := setByte s.pbuf s.pcnt.toNat b } ∧
    Responded s t (blankResponse .needMore)

/-- What a byte that fails its check does: the parser restarts on it, the latch and `CRC` untouched, and
`FRAMING_ERROR` with the state in which it failed (R142, R143). -/
def PushFails (s : State) (b : Byte) (fe : BitVec 3) : Prop :=
  ∃ t, exec (.push b) s = .next t ∧
    blockOf t = { blockOf s with
      pst := .awaitFunc, pcnt := 1, pbuf := setByte (setByte s.pbuf s.pcnt.toNat b) 0 b } ∧
    Responded s t { blankResponse .framingError with feState := fe }

/-- What the last byte of a valid frame does: `COMPLETE`, the frame latched and returned with its fields, and nothing
else changed (R148, R160, R200). -/
def PushCompletes (s : State) (b : Byte) : Prop :=
  ∃ t, exec (.push b) s = .next t ∧ t.params = s.params ∧ t.variant = s.variant ∧ t.crc = s.crc ∧ t.pst = .complete ∧
    t.pcnt = BitVec.ofNat 5 (s.pcnt.toNat + 1) ∧ t.pbuf = setByte s.pbuf s.pcnt.toNat b ∧ t.flValid = true ∧
    t.flLen = t.pcnt ∧
    (∀ i, i < t.pcnt.toNat → byteAt t.fl i = byteAt t.pbuf i) ∧
    ∃ r : Response, Responded s t { blankResponse .complete with
        frameLen := t.flLen, frame := r.frame, fields := frameFields t.params t.variant t.fl } ∧
      ∀ i, byteAt r.frame i = if i < t.flLen.toNat then byteAt t.fl i else 0

/-- A byte sequence with bit `j` of byte `i` flipped (R169). -/
def flipBit (bs : List Byte) (i j : Nat) : List Byte := bs.set i (bs.getD i 0 ^^^ (1#8 <<< j))

end Sys2Proof.Machine
end

