-- ==== Sys2Proof/WellFormed.lean ====
section
/-! DEFINITION. Which commands are well formed: those whose operands 30_encoding.md R76 admits and that spell a
command (R74). Every operand width is in its type, so any command has an encoding; an ill-formed one is decoded too
and answered `INVALID_ARGUMENT` or `NOT_SUPPORTED` (R76, R77, R182). -/
namespace Sys2Proof

/-- `LEN` is at most `P_MAX_PAYLOAD`, and no bit of `DATA` at or above payload byte `LEN` is 1 (R76). -/
def payloadFits (ps : Params) (len : BitVec 4) (data : BitVec 64) : Bool :=
  decide (len.toNat ≤ ps.maxPayload) && decide (data >>> (8 * len.toNat) = 0)

/-- The checks of R76 in a build of the given parameters, and no reserved opcode (R74). -/
def Instr.wellFormed (ps : Params) : Instr → Bool
  | .nop => true
  | .reset => true
  | .push _ => true
  | .parserClear => true
  | .frameRead => true
  | .crcClear => true
  | .crcByte _ => true
  | .crcWord _ => true
  | .encA len _ _ data => payloadFits ps len data
  | .encS len _ addr _ cmd _ data => payloadFits ps len data && decide (addr.toNat ≤ 0xFFF) && decide (cmd ≠ 7)
  | .reservedAB _ _ => false
  | .reservedCF _ _ => false

end Sys2Proof
end

