-- ==== Sys2Proof/Certificates/Slice0/Obligations.lean ====
section
/-! DEFINITION. The statements for the provers. Each docstring names the rule of spec/ it formalises. -/

open Sys2Proof Sys2Proof.Machine

/-! ## Encoding -/

/-- Decode and encode agree on every command, every operand at every value (R70, R71, R73). -/
def Obligations.DecodeEncodeEveryCommand : Prop :=
  ∀ i : Instr, decode (encode i) = .ok i

/-- A word the decoder accepts is the encoding of the command it gives: no bit of it is dropped (R70 to R75). -/
def Obligations.EncodeDecodeEveryAcceptedWord : Prop :=
  ∀ (c : CmdWord) (i : Instr), decode c = .ok i → encode i = c

/-- R73: every operand field is the unsigned number that stands in its bits, and the commands take those fields. -/
def Obligations.OperandFieldsTakenAsTheyStand : Prop :=
  ∀ c : CmdWord,
    (lenField c).toNat = c.toNat / 2 ^ 4 % 2 ^ 4 ∧ (bField c).toNat = c.toNat / 2 ^ 8 % 2 ^ 8 ∧
    (wField c).toNat = c.toNat / 2 ^ 16 % 2 ^ 16 ∧ (addrField c).toNat = c.toNat / 2 ^ 32 % 2 ^ 24 ∧
    (subField c).toNat = c.toNat / 2 ^ 56 % 2 ^ 4 ∧ (cmdField c).toNat = c.toNat / 2 ^ 60 % 2 ^ 3 ∧
    (pendField c).toNat = c.toNat / 2 ^ 63 % 2 ∧
    (∀ k, k < 8 → (payloadByte (dataField c) k).toNat = c.toNat / 2 ^ (64 + 8 * k) % 2 ^ 8) ∧
    (∀ b, decode c = .ok (.push b) → b = bField c) ∧
    (∀ b, decode c = .ok (.crcByte b) → b = bField c) ∧
    (∀ w, decode c = .ok (.crcWord w) → w = wField c) ∧
    (∀ len b addr data, decode c = .ok (.encA len b addr data) →
      len = lenField c ∧ b = bField c ∧ addr = addrField c ∧ data = dataField c) ∧
    (∀ len b addr sub cmd pend data, decode c = .ok (.encS len b addr sub cmd pend data) →
      len = lenField c ∧ b = bField c ∧ addr = addrField c ∧ sub = subField c ∧ cmd = cmdField c ∧
        pend = pendField c ∧ data = dataField c)

/-- R72: a command word has opcode X when `c & mask(X) = match(X)`, for each row of the table; the two reserved rows
too (R74). -/
def Obligations.WordHasOpcodeIffItMatchesTheRow : Prop :=
  ∀ r ∈ opRows, ∀ c : CmdWord, r.hits c = true ↔ ∃ i, decode c = .ok i ∧ i.mnemonic = r.mnemonic

/-- R75, R77, R182: a word spells no command of the table, reserved rows included, exactly when no row matches it,
and then its opcode is a legal one. -/
def Obligations.WordRejectedIffNoRowMatches : Prop :=
  ∀ c : CmdWord, ((∃ r, decode c = .error r) ↔ ∀ r ∈ opRows, r.hits c = false) ∧
    (∀ r, decode c = .error r → (opField c).toNat < 10)

/-- Words written out in spec/95_test_vectors.md decode to the commands named beside them. -/
def Obligations.WrittenOutWordsDecode : Prop :=
  decode 0x00000000000000000000000000000000 = .ok .nop ∧
  decode 0x00000000000000000000000000002B02 = .ok (.push 0x2B) ∧
  decode 0x00000000000000000000000001120007 = .ok (.crcWord 0x0112) ∧
  decode 0x00000000000012340000016000000128 = .ok (.encA 2 0x01 0x000160 0x1234) ∧
  decode 0x0807060504030201B3000FFF00000A89 = .ok (.encS 8 0x0A 0xFFF 3 3 1 0x0807060504030201) ∧
  decode 0x80000000000000000000000000000000 = .error (.fixedBits 0)

/-- R58, R90: the assembler form puts the number of bytes listed in `LEN` and byte `k` of the list in `D[k]`. -/
def Obligations.AssembledPayloadBytes : Prop :=
  ∀ (ds : List Byte), ds.length ≤ 8 → ∀ (node : Byte) (addr : BitVec 24),
    ∃ len data, asmEncA node addr ds = .encA len node addr data ∧ len.toNat = ds.length ∧
      (∀ k, k < ds.length → payloadByte data k = ds.getD k 0) ∧
      ∀ k, ds.length ≤ k → k < 8 → payloadByte data k = 0

/-! ## The step -/

/-- R9: a step takes the client's next command word and executes the command it decodes to, in the state as it
stands, with that word taken. -/
def Obligations.StepRunsDecodedCommand : Prop :=
  ∀ (s : State) (c : CmdWord) (rest : List CmdWord) (i : Instr), s.cmds = c :: rest → decode c = .ok i →
    step s = exec i { s with cmds := rest }

/-- R182: a word outside the match and mask rows of R72 (the first ten rows; the last two are the reserved opcodes)
spells no command: the step answers `NOT_SUPPORTED`, writes no state, and the block goes on to the next word. -/
def Obligations.WordThatSpellsNoCommandIsNotSupported : Prop :=
  ∀ (s : State) (c : CmdWord) (rest : List CmdWord), s.cmds = c :: rest →
    (∀ r ∈ opRows.take 10, r.hits c = false) →
    ∃ t, step s = .next t ∧ blockOf t = blockOf s ∧ t.cmds = rest ∧
      t.resps = s.resps ++ [{ blankResponse .notSupported with stat := statWord s }]

/-- R9, R200, R32: a step with a command issued takes exactly that one and, when it answers, gives exactly one
response, carrying `STAT` of the state after it. -/
def Obligations.EveryCommandGetsOneResponse : Prop :=
  ∀ (s t : State) (c : CmdWord) (rest : List CmdWord), s.cmds = c :: rest → step s = .next t →
    t.cmds = rest ∧ ∃ r, t.resps = s.resps ++ [r] ∧ r.stat = statWord t

/-- R32: the bits of `STAT`. -/
def Obligations.StatWordLayout : Prop :=
  ∀ s : State,
    (statWord s).extractLsb' 0 5 = s.pcnt ∧ (statWord s).extractLsb' 5 3 = parseCode s.pst ∧
    (statWord s).getLsbD 8 = s.flValid ∧ (statWord s).extractLsb' 9 5 = s.flLen ∧
    (statWord s).getLsbD 14 = decide (s.variant = .sync) ∧ (statWord s).getLsbD 15 = false

/-! ## Control -/

/-- R180: `NOP` answers `OK` and writes no state. -/
def Obligations.NopWritesNothing : Prop :=
  ∀ s : State, ∃ t, exec .nop s = .next t ∧ blockOf t = blockOf s ∧ Responded s t (blankResponse .ok)

/-- R181: `RESET` writes `CRC`, `PST`, `PCNT`, `FL_VALID` and `FL_LEN`, leaves the build parameters
and `P_VARIANT`, and answers `OK`. -/
def Obligations.ResetWritesResetValues : Prop :=
  ∀ s : State, ∃ t, exec .reset s = .next t ∧ t.crc = s.params.crcInit ∧ t.pst = .awaitFunc ∧ t.pcnt = 0 ∧
    t.flValid = false ∧ t.flLen = 0 ∧ t.params = s.params ∧ t.variant = s.variant ∧
    Responded s t (blankResponse .ok)

/-- R182, R74: the reserved opcodes answer `NOT_SUPPORTED` and write no state, whatever their other bits. -/
def Obligations.ReservedOpcodesAnswerNotSupported : Prop :=
  ∀ (s : State) (i : Instr), (∃ low rest, i = .reservedAB low rest) ∨ (∃ low rest, i = .reservedCF low rest) →
    ∃ t, exec i s = .next t ∧ blockOf t = blockOf s ∧ Responded s t (blankResponse .notSupported)

/-- R220: the state after power-on, of any build, and its first `STAT`, for either variant. -/
def Obligations.PowerOnState : Prop :=
  ∀ (ps : Params) (v : Variant), (State.powerOn ps v).params = ps ∧ (State.powerOn ps v).variant = v ∧
    (State.powerOn ps v).crc = ps.crcInit ∧ (State.powerOn ps v).pst = .awaitFunc ∧ (State.powerOn ps v).pcnt = 0 ∧
    (State.powerOn ps v).flValid = false ∧ (State.powerOn ps v).flLen = 0 ∧
    statWord (State.powerOn ps .async) = 0x0000 ∧ statWord (State.powerOn ps .sync) = 0x4000 ∧
    State.reset.crc = 0x0000

/-- R221: after the `RESET` command everything a rule can read is as after power-on. -/
def Obligations.ResetCommandEqualsPowerOn : Prop :=
  ∀ s : State, ∃ t, exec .reset s = .next t ∧ blockOf (observable t) = observable (State.powerOn s.params s.variant)

/-- R61: a second `RESET`, `PARSER_CLEAR` or `CRC_CLEAR` changes nothing more in the block. -/
def Obligations.ClearingCommandsAreIdempotent : Prop :=
  ∀ (s : State) (i : Instr), i = .reset ∨ i = .parserClear ∨ i = .crcClear →
    ∃ t u, exec i s = .next t ∧ exec i t = .next u ∧ blockOf u = blockOf t

/-! ## CRC unit -/

/-- R105: `CRC_CLEAR` sets `CRC` to its initial value, answers `OK` with it, and changes nothing else. -/
def Obligations.CrcClearEffect : Prop :=
  ∀ s : State, ∃ t, exec .crcClear s = .next t ∧ blockOf t = { blockOf s with crc := s.params.crcInit } ∧
    Responded s t { blankResponse .ok with crc := s.params.crcInit }

/-- R106: `CRC_BYTE b` feeds one byte to `CRC`, answers `OK` with the new value, and changes nothing else. -/
def Obligations.CrcByteEffect : Prop :=
  ∀ (s : State) (b : Byte), ∃ t, exec (.crcByte b) s = .next t ∧
    blockOf t = { blockOf s with crc := step8 s.params.crcPoly s.crc b } ∧
    Responded s t { blankResponse .ok with crc := step8 s.params.crcPoly s.crc b }

/-- R107, R102: `CRC_WORD w` feeds the high byte and then the low byte of `w` to `CRC`, answers `OK` with the new
value, and changes nothing else. -/
def Obligations.CrcWordEffect : Prop :=
  ∀ (s : State) (w : Word), ∃ t, exec (.crcWord w) s = .next t ∧
    blockOf t = { blockOf s with
      crc := step8 s.params.crcPoly (step8 s.params.crcPoly s.crc (w.extractLsb' 8 8)) (w.extractLsb' 0 8) } ∧
    Responded s t { blankResponse .ok with
      crc := step8 s.params.crcPoly (step8 s.params.crcPoly s.crc (w.extractLsb' 8 8)) (w.extractLsb' 0 8) }

/-- R103: the table of a build is `T[i] = step8(0x0000, i)`, the table the rule prints is that of `P_CRC_POLY = 0x1021`,
and the table-driven byte step gives the value of the bit-by-bit step for every polynomial, `c` and `b`. -/
def Obligations.TableDrivenStepEqualsBitwiseStep : Prop :=
  (∀ poly : Word, (crcRom poly).length = 256 ∧
    ∀ i, i < 256 → (crcRom poly).getD i 0 = step8 poly 0x0000 (BitVec.ofNat 8 i)) ∧
  crcTable = crcRom 0x1021 ∧
  ∀ (poly c : Word) (b : Byte),
    step8 poly c b = (c <<< 8) ^^^ (crcRom poly).getD (c.extractLsb' 8 8 ^^^ b).toNat 0

/-- R104, R91: the CRC unit, fed the words of a sequence or their bytes in wire order from a `CRC_CLEAR`, ends with
the frame check of the sequence, and changes nothing else of the block. -/
def Obligations.CrcUnitComputesFrameCheck : Prop :=
  ∀ (ws : List Word) (s : State), ∃ t u,
    execAll (crcWords ws) s = .next t ∧ blockOf t = { blockOf s with
      crc := crc16 s.params ws ^^^ s.params.crcXorOut } ∧
    execAll (crcBytes (ws.flatMap wireBytes)) s = .next u ∧ blockOf u = blockOf t

/-- R108: linearity of the frame check, in every build. -/
def Obligations.FrameCheckIsLinear : Prop :=
  ∀ (ps : Params) (m e : List Word), m.length = e.length →
    crc16 ps (List.zipWith (fun x y => x ^^^ y) m e) = crc16 ps m ^^^ crcFold ps.crcPoly 0x0000 e

/-- R108: a single-bit change in the six words of a sync frame changes the CRC, for the polynomial of the rule and any
initial value and final exclusive-or. -/
def Obligations.SingleBitChangeChangesFrameCheck : Prop :=
  ∀ (ps : Params) (ws : List Word) (i j : Nat), ps.crcPoly = 0x1021 → ws.length = 6 → i < 6 → j < 16 →
    crc16 ps (ws.set i (ws.getD i 0 ^^^ (1#16 <<< j))) ≠ crc16 ps ws

/-- R109: with `P_CRC_XOROUT = 0`, folding `step16` over a whole correct sync frame from `P_CRC_INIT` gives 0. -/
def Obligations.FrameCheckResidueIsZero : Prop :=
  ∀ (ps : Params) (ws : List Word), ps.crcXorOut = 0x0000 → ws.length = 6 →
    crcFold ps.crcPoly ps.crcInit (ws ++ [crc16 ps ws]) = 0x0000

/-! ## Encoder -/

/-- R120, R121, R125: `ENC_A` with legal operands answers `OK` with the bytes of the async frame (13 header bytes, the
payload, `P_SYNC_LEN` sync bytes: `17 + n` in the standard build), every other response field 0, and writes no state.
Bytes 6 and 7 follow `P_INDEX_ORDER` (R79). The frame fits the 25 bytes of `out` (R200), as in the standard build every
frame does (R7). -/
def Obligations.EncAEmitsAsyncFrame : Prop :=
  ∀ (s : State) (len : BitVec 4) (b : Byte) (addr : BitVec 24) (data : BitVec 64),
    len.toNat ≤ s.params.maxPayload → 13 + len.toNat + s.params.syncLen ≤ 25 →
    (∀ k, len.toNat ≤ k → k < 8 → payloadByte data k = 0) →
    ∃ t, ∃ r : Response, exec (.encA len b addr data) s = .next t ∧ blockOf t = blockOf s ∧
      Responded s t { blankResponse .ok with outLen := r.outLen, out := r.out } ∧
      r.outLen.toNat = 13 + len.toNat + s.params.syncLen ∧
      byteAt r.out 0 = b ∧ byteAt r.out 1 = s.params.func ∧ byteAt r.out 2 = s.params.typeCode ∧
      byteAt r.out 3 = s.params.flagRequest ∧ byteAt r.out 4 = 0x00 ∧ byteAt r.out 5 = b ∧
      byteAt r.out 6 = (if s.params.indexOrder = .be then addr.extractLsb' 8 8 else addr.extractLsb' 0 8) ∧
      byteAt r.out 7 = (if s.params.indexOrder = .be then addr.extractLsb' 0 8 else addr.extractLsb' 8 8) ∧
      byteAt r.out 8 = addr.extractLsb' 16 8 ∧ byteAt r.out 9 = 0x00 ∧
      byteAt r.out 10 = 0x00 ∧ byteAt r.out 11 = 0x00 ∧ (byteAt r.out 12).toNat = len.toNat ∧
      (∀ k, k < len.toNat → byteAt r.out (13 + k) = payloadByte data k) ∧
      (∀ k, k < s.params.syncLen → byteAt r.out (13 + len.toNat + k) = s.params.syncByte) ∧
      ∀ i, 13 + len.toNat + s.params.syncLen ≤ i → i < 25 → byteAt r.out i = 0

/-- R76, R120, R204: `ENC_A` with `LEN` above `P_MAX_PAYLOAD`, or with a nonzero `DATA` byte at or after `LEN`, answers
`INVALID_ARGUMENT` with no frame and writes no state. -/
def Obligations.EncARefusesBadOperands : Prop :=
  ∀ (s : State) (len : BitVec 4) (b : Byte) (addr : BitVec 24) (data : BitVec 64),
    s.params.maxPayload < len.toNat ∨ (∃ k, len.toNat ≤ k ∧ k < 8 ∧ payloadByte data k ≠ 0) →
    ∃ t, exec (.encA len b addr data) s = .next t ∧ blockOf t = blockOf s ∧
      Responded s t (blankResponse .invalidArgument)

/-- R122, R123, R125: `ENC_S` with legal operands answers `OK` with the 14 bytes of the sync frame, every other
response field 0, and writes no state. -/
def Obligations.EncSEmitsSyncFrame : Prop :=
  ∀ (s : State) (len : BitVec 4) (b : Byte) (addr : BitVec 24) (sub : BitVec 4) (cmd : BitVec 3) (pend : BitVec 1)
    (data : BitVec 64), len.toNat ≤ s.params.maxPayload →
    (∀ k, len.toNat ≤ k → k < 8 → payloadByte data k = 0) → addr.toNat ≤ 0xFFF → cmd ≠ 7 →
    ∃ t, ∃ r : Response, exec (.encS len b addr sub cmd pend data) s = .next t ∧ blockOf t = blockOf s ∧
      Responded s t { blankResponse .ok with outLen := 14, out := r.out } ∧
      (wordAt r.out 0).toNat = 2 ^ 4 * b.toNat + sub.toNat ∧
      (wordAt r.out 1).toNat = 2 ^ 4 * addr.toNat + 2 * cmd.toNat + pend.toNat ∧
      (∀ k, k < 8 → byteAt r.out (4 + k) = if k < len.toNat then payloadByte data k else 0) ∧
      wordAt r.out 6 = crc16 s.params [wordAt r.out 0, wordAt r.out 1, wordAt r.out 2, wordAt r.out 3, wordAt r.out 4,
        wordAt r.out 5] ∧
      ∀ i, 14 ≤ i → i < 25 → byteAt r.out i = 0

/-- R76, R122, R204: `ENC_S` with an operand value the rule reserves answers `INVALID_ARGUMENT` with no frame and
writes no state. -/
def Obligations.EncSRefusesBadOperands : Prop :=
  ∀ (s : State) (len : BitVec 4) (b : Byte) (addr : BitVec 24) (sub : BitVec 4) (cmd : BitVec 3) (pend : BitVec 1)
    (data : BitVec 64),
    s.params.maxPayload < len.toNat ∨ (∃ k, len.toNat ≤ k ∧ k < 8 ∧ payloadByte data k ≠ 0) ∨
      0xFFF < addr.toNat ∨ cmd = 7 →
    ∃ t, exec (.encS len b addr sub cmd pend data) s = .next t ∧ blockOf t = blockOf s ∧
      Responded s t (blankResponse .invalidArgument)

/-- R76, R77: an encoder command is answered `OK` exactly when it is well formed, and `INVALID_ARGUMENT` otherwise. -/
def Obligations.EncoderAnswersOkIffWellFormed : Prop :=
  ∀ (s : State) (i : Instr), (∃ len b addr data, i = .encA len b addr data) ∨
      (∃ len b addr sub cmd pend data, i = .encS len b addr sub cmd pend data) →
    ∃ t, ∃ r : Response, exec i s = .next t ∧ Responded s t r ∧
      r.status = if i.wellFormed s.params = true then .ok else .invalidArgument

/-! ## Parser -/

/-- R141: in `COMPLETE` a `PUSH` takes its byte as byte 0 of a new frame, the latch untouched. -/
def Obligations.PushInCompleteRestarts : Prop :=
  ∀ (s : State) (b : Byte), s.pst = .complete →
    ∃ t, exec (.push b) s = .next t ∧
      blockOf t = { blockOf s with pst := .awaitFunc, pcnt := 1, pbuf := setByte s.pbuf 0 b } ∧
      Responded s t (blankResponse .needMore)

/-- R144: the marker checks of an async frame, position by position, with the states R150 gives. -/
def Obligations.AsyncMarkerChecks : Prop :=
  ∀ (s : State) (b : Byte), s.variant = .async → s.pst ≠ .complete →
    (s.pcnt = 0 → PushAccepts s b .awaitFunc) ∧
    (s.pcnt = 1 → s.pst = .awaitFunc → if b = s.params.func then PushAccepts s b .awaitType else PushFails s b 0) ∧
    (s.pcnt = 2 → s.pst = .awaitType → if b = s.params.typeCode then PushAccepts s b .awaitLen else PushFails s b 1) ∧
    (3 ≤ s.pcnt.toNat → s.pcnt.toNat ≤ 11 → PushAccepts s b .awaitLen)

/-- R145: the length check at the low length byte. `n` is the declared length, the high byte being in the buffer. -/
def Obligations.AsyncLengthCheck : Prop :=
  ∀ (s : State) (b : Byte), s.variant = .async → s.pst = .awaitLen → s.pcnt = 12 →
    if 2 ^ 8 * (byteAt s.pbuf 11).toNat + b.toNat ≤ s.params.maxPayload then PushAccepts s b .awaitTrailer
    else PushFails s b 2

/-- R149, R148: the payload and the sync trailer of an async frame of declared length `n`: the last of the `P_SYNC_LEN`
sync bytes, at `12 + n + P_SYNC_LEN` (`16 + n` in the standard build), completes the frame. The frame fits the 25 bytes of `PBUF`, as in the standard build
every frame does (R7). -/
def Obligations.AsyncPayloadAndTrailer : Prop :=
  ∀ (s : State) (b : Byte) (n : Nat), s.variant = .async → s.pst = .awaitTrailer → 13 + n + s.params.syncLen ≤ 25 →
    n ≤ s.params.maxPayload → 2 ^ 8 * (byteAt s.pbuf 11).toNat + (byteAt s.pbuf 12).toNat = n →
    (13 ≤ s.pcnt.toNat → s.pcnt.toNat ≤ 12 + n → PushAccepts s b .awaitTrailer) ∧
    (13 + n ≤ s.pcnt.toNat → s.pcnt.toNat ≤ 12 + n + s.params.syncLen →
      if b ≠ s.params.syncByte then PushFails s b 3
      else if s.pcnt.toNat = 12 + n + s.params.syncLen then PushCompletes s b
      else PushAccepts s b .awaitTrailer)

/-- R146, R150: a sync parser accepts every byte of positions 0 to 12, and at position 13 completes exactly when the
CRC word is the frame check of the six words before it. -/
def Obligations.SyncBytesAndCrcCheck : Prop :=
  ∀ (s : State) (b : Byte), s.variant = .sync → s.pst ≠ .complete →
    (s.pcnt.toNat ≤ 12 → PushAccepts s b (if s.pcnt.toNat = 0 then .awaitFunc else if s.pcnt.toNat ≤ 2 then .awaitType
      else if s.pcnt.toNat ≤ 10 then .awaitLen else .awaitTrailer)) ∧
    (s.pcnt = 13 → s.pst = .awaitTrailer →
      if crc16 s.params [wordAt s.pbuf 0, wordAt s.pbuf 1, wordAt s.pbuf 2, wordAt s.pbuf 3, wordAt s.pbuf 4,
          wordAt s.pbuf 5] = wordOf (byteAt s.pbuf 12) b
        then PushCompletes s b else PushFails s b 3)

/-- R143: after a framing error the failing byte is byte 0 of the next frame, and the latch is untouched. -/
def Obligations.FramingErrorKeepsTheByte : Prop :=
  ∀ (s t : State) (b : Byte) (r : Response), exec (.push b) s = .next t → t.resps = s.resps ++ [r] →
    r.status = .framingError →
    byteAt t.pbuf 0 = b ∧ t.pcnt = 1 ∧ t.pst = .awaitFunc ∧ t.flValid = s.flValid ∧ t.flLen = s.flLen ∧ t.fl = s.fl ∧
      s.pst ≠ .complete ∧ r.feState = parseCode s.pst

/-- R202: the state and position of a framing error, by variant, and that no other position can fail. -/
def Obligations.FramingErrorStateByPosition : Prop :=
  ∀ (s t : State) (b : Byte) (r : Response), BlockInv s → exec (.push b) s = .next t → t.resps = s.resps ++ [r] →
    r.status = .framingError →
    (s.variant = .async ∧ s.pcnt = 1 ∧ b ≠ s.params.func ∧ r.feState = 0) ∨
    (s.variant = .async ∧ s.pcnt = 2 ∧ b ≠ s.params.typeCode ∧ r.feState = 1) ∨
    (s.variant = .async ∧ s.pcnt = 12 ∧ s.params.maxPayload < 2 ^ 8 * (byteAt s.pbuf 11).toNat + b.toNat ∧
      r.feState = 2) ∨
    (s.variant = .async ∧ 13 + declaredLen s.pbuf ≤ s.pcnt.toNat ∧
      s.pcnt.toNat ≤ 12 + declaredLen s.pbuf + s.params.syncLen ∧ b ≠ s.params.syncByte ∧ r.feState = 3) ∨
    (s.variant = .sync ∧ s.pcnt = 13 ∧ crc16 s.params (checkedWords s.pbuf) ≠ wordOf (byteAt s.pbuf 12) b ∧
      r.feState = 3)

/-- R165: every `PUSH` ends in exactly one of `NEED_MORE`, `COMPLETE`, `FRAMING_ERROR`, and leaves `PCNT` at least 1. -/
def Obligations.PushEndsInOneOfThreeOutcomes : Prop :=
  ∀ (s : State) (b : Byte), BlockInv s → ∃ t, ∃ r : Response, exec (.push b) s = .next t ∧ t.resps = s.resps ++ [r] ∧
    (r.status = .needMore ∨ r.status = .complete ∨ r.status = .framingError) ∧ 1 ≤ t.pcnt.toNat

/-- The frame of `PUSH` (R24, R27, R30, R142, R143): what it leaves unchanged. -/
def Obligations.PushLeavesTheRest : Prop :=
  ∀ (s t : State) (b : Byte), exec (.push b) s = .next t →
    t.params = s.params ∧ t.variant = s.variant ∧ t.crc = s.crc ∧ t.cmds = s.cmds ∧
    (∀ i, i ≠ 0 → i ≠ s.pcnt.toNat → byteAt t.pbuf i = byteAt s.pbuf i) ∧
    (t.pst ≠ .complete → t.flValid = s.flValid ∧ t.flLen = s.flLen ∧ t.fl = s.fl)

/-- The model's reading of the bytes no rule names (log entries 6 and 7): `RESET` leaves `PBUF` and `FL` as they are,
and a completed frame leaves the bytes of `FL` past its end. -/
def Obligations.UnnamedBytesStay : Prop :=
  (∀ s : State, ∃ t, exec .reset s = .next t ∧ t.pbuf = s.pbuf ∧ t.fl = s.fl) ∧
  ∀ (s t : State) (b : Byte), exec (.push b) s = .next t → t.pst = .complete →
    ∀ i, t.flLen.toNat ≤ i → byteAt t.fl i = byteAt s.fl i

/-- R162: `PARSER_CLEAR` sets `PCNT` and `PST`, answers `OK`, and changes nothing else. -/
def Obligations.ParserClearEffect : Prop :=
  ∀ s : State, ∃ t, exec .parserClear s = .next t ∧ blockOf t = { blockOf s with pcnt := 0, pst := .awaitFunc } ∧
    Responded s t (blankResponse .ok)

/-- R161: `FRAME_READ` answers `OK` with the latched frame and its fields, or `INVALID_STATE` when none is latched, and
writes no state. -/
def Obligations.FrameReadReturnsTheLatch : Prop :=
  ∀ s : State, ∃ t, ∃ r : Response, exec .frameRead s = .next t ∧ blockOf t = blockOf s ∧ Responded s t r ∧
    (s.flValid = true → r = { blankResponse .ok with
        frameLen := s.flLen, frame := r.frame, fields := frameFields s.params s.variant s.fl } ∧
      ∀ i, byteAt r.frame i = if i < s.flLen.toNat then byteAt s.fl i else 0) ∧
    (s.flValid = false → r = blankResponse .invalidState)

/-- R155, R157, R160: the accessors of an async frame of declared length `n`. The order of the index bytes is
`P_INDEX_ORDER` (R79). -/
def Obligations.AsyncAccessors : Prop :=
  ∀ (ps : Params) (fl : Buf) (n : Nat), 2 ^ 8 * (byteAt fl 11).toNat + (byteAt fl 12).toNat = n →
    (frameFields ps .async fl).node.toNat = (byteAt fl 0).toNat ∧ (frameFields ps .async fl).node2 = byteAt fl 5 ∧
    (frameFields ps .async fl).flag = byteAt fl 3 ∧
    (frameFields ps .async fl).index.toNat =
      (if ps.indexOrder = .be then 2 ^ 8 * (byteAt fl 6).toNat + (byteAt fl 7).toNat
        else 2 ^ 8 * (byteAt fl 7).toNat + (byteAt fl 6).toNat) ∧
    (frameFields ps .async fl).subindex = byteAt fl 8 ∧
    (frameFields ps .async fl).address.toNat =
      (frameFields ps .async fl).index.toNat + 2 ^ 16 * (frameFields ps .async fl).subindex.toNat ∧
    (frameFields ps .async fl).length.toNat = n ∧
    (∀ k : Fin 8, (frameFields ps .async fl).payload[k] = if k.val < n then byteAt fl (13 + k.val) else 0) ∧
    ((frameFields ps .async fl).isResponse = 1 ↔ byteAt fl 3 ≠ ps.flagRequest) ∧
    (frameFields ps .async fl).subnode = 0 ∧ (frameFields ps .async fl).cmd = 0 ∧
    (frameFields ps .async fl).pending = 0 ∧ (frameFields ps .async fl).crc = 0

/-- R156, R158, R160: the accessors of a sync frame. -/
def Obligations.SyncAccessors : Prop :=
  ∀ (ps : Params) (fl : Buf),
    (frameFields ps .sync fl).node.toNat = (wordAt fl 0).toNat / 2 ^ 4 ∧
    (frameFields ps .sync fl).subnode.toNat = (wordAt fl 0).toNat % 2 ^ 4 ∧
    (frameFields ps .sync fl).address.toNat = (wordAt fl 1).toNat / 2 ^ 4 ∧
    (frameFields ps .sync fl).index.toNat = (wordAt fl 1).toNat / 2 ^ 4 ∧ (frameFields ps .sync fl).subindex = 0 ∧
    (frameFields ps .sync fl).cmd.toNat = (wordAt fl 1).toNat / 2 % 2 ^ 3 ∧
    (frameFields ps .sync fl).pending.toNat = (wordAt fl 1).toNat % 2 ∧ (frameFields ps .sync fl).length = 8 ∧
    (∀ k : Fin 8, (frameFields ps .sync fl).payload[k] = byteAt fl (4 + k.val)) ∧
    (frameFields ps .sync fl).crc = wordAt fl 6 ∧
    ((frameFields ps .sync fl).isResponse = 1 ↔ (frameFields ps .sync fl).cmd ∈ ps.respCmds) ∧
    (frameFields ps .sync fl).node2 = 0 ∧ (frameFields ps .sync fl).flag = 0

/-! ## The invariant and the whole machine -/

/-- R28 to R30: every step keeps the invariant, from every state that meets it. -/
def Obligations.StepKeepsInvariant : Prop :=
  ∀ s t : State, BlockInv s → step s = .next t → BlockInv t

/-- The invariant holds after power-on of either variant of any build that fits, and at reset. -/
def Obligations.InvariantHoldsAtReset : Prop :=
  (∀ (ps : Params) (v : Variant), ps.Fits → BlockInv (State.powerOn ps v)) ∧ BlockInv State.reset

/-- R31: `PCNT` is at most 25 for ASYNC and at most 14 for SYNC after every step, and a `PUSH` stores its byte, at
`PCNT` after any restart, below index 25. -/
def Obligations.PcntStaysInBounds : Prop :=
  ∀ s t : State, BlockInv s → step s = .next t → (t.variant = .async → t.pcnt.toNat ≤ 25) ∧
    (t.variant = .sync → t.pcnt.toNat ≤ 14) ∧ (restart s).pcnt.toNat ≤ 24

/-- R29: after every step, when `PST` is `COMPLETE`, `PCNT` is the length of the frame just completed (13 header bytes,
`n` payload bytes and `P_SYNC_LEN` sync bytes for ASYNC, so `17 + n` in the standard build; 14 for SYNC), the buffer equals
the latch and `FL_VALID` is 1. -/
def Obligations.CompleteMeansLatched : Prop :=
  ∀ s t : State, BlockInv s → step s = .next t → t.pst = .complete →
    (t.variant = .async → t.pcnt.toNat = 13 + declaredLen t.fl + t.params.syncLen) ∧
    (t.variant = .sync → t.pcnt.toNat = 14) ∧
    (∀ i, i < t.pcnt.toNat → byteAt t.pbuf i = byteAt t.fl i) ∧ t.pcnt = t.flLen ∧ t.flValid = true

/-- R210: from every state that meets the invariant every step answers a next state: no fault and no refusal, whatever
the command word. -/
def Obligations.NoStepStops : Prop :=
  ∀ s : State, BlockInv s → ∃ t, step s = .next t

/-- R204: a command answered `NOT_SUPPORTED`, `INVALID_ARGUMENT` or `INVALID_STATE` changes no state, and its `STAT` is
the one before it. -/
def Obligations.RefusedCommandsChangeNothing : Prop :=
  ∀ (s t : State) (c : CmdWord) (rest : List CmdWord) (r : Response), s.cmds = c :: rest → step s = .next t →
    t.resps = s.resps ++ [r] →
    r.status = .notSupported ∨ r.status = .invalidArgument ∨ r.status = .invalidState →
    blockOf t = blockOf s ∧ r.stat = statWord s

/-- R6, R23, R24, R25, R30: which commands may write which part of the state. -/
def Obligations.OnlyNamedCommandsWrite : Prop :=
  ∀ (s t : State) (i : Instr), exec i s = .next t →
    t.params = s.params ∧ t.variant = s.variant ∧
    (t.crc ≠ s.crc → i = .reset ∨ i = .crcClear ∨ (∃ b, i = .crcByte b) ∨ ∃ w, i = .crcWord w) ∧
    (t.pst ≠ s.pst ∨ t.pcnt ≠ s.pcnt → i = .reset ∨ i = .parserClear ∨ ∃ b, i = .push b) ∧
    (t.pbuf ≠ s.pbuf → ∃ b, i = .push b) ∧
    (t.flValid ≠ s.flValid ∨ t.flLen ≠ s.flLen ∨ t.fl ≠ s.fl →
      i = .reset ∨ ((∃ b, i = .push b) ∧ t.pst = .complete))

/-- R229, R24: the parser, the encoder and `FRAME_READ` neither read nor write `CRC`. -/
def Obligations.CrcRegisterIsInvisibleToTheOtherUnits : Prop :=
  ∀ (s : State) (w : Word) (i : Instr),
    (∃ b, i = .push b) ∨ i = .parserClear ∨ i = .frameRead ∨ (∃ len b addr data, i = .encA len b addr data) ∨
      (∃ len b addr sub cmd pend data, i = .encS len b addr sub cmd pend data) →
    match exec i s with
    | .next t => exec i { s with crc := w } = .next { t with crc := w }
    | .fault f => exec i { s with crc := w } = .fault f
    | .refused r => exec i { s with crc := w } = .refused r

/-- R27, R30, 93 I10: the bytes the spec leaves unspecified are never observable. Two states that differ in them alone
give the same responses, and their next states again differ in such bytes alone. -/
def Obligations.UnspecifiedBytesAreUnobservable : Prop :=
  ∀ s s' t : State, BlockInv s → observable s' = observable s → step s = .next t →
    ∃ t', step s' = .next t' ∧ observable t' = observable t

/-! ## Whole frames -/

/-- R126: the async round trip. The bytes of `ENC_A`'s output (`17 + n` in the standard build), pushed from `PCNT = 0` or
`COMPLETE`, give `NEED_MORE` for all but the last and `COMPLETE` for the last, with the operands in the field record. The
frame has a sync byte and fits the 25 bytes of the block's buffers, as in the standard build every frame does (R7). -/
def Obligations.AsyncRoundTrip : Prop :=
  ∀ (s : State) (len : BitVec 4) (b : Byte) (addr : BitVec 24) (data : BitVec 64),
    s.variant = .async → s.pcnt = 0 ∨ s.pst = .complete → len.toNat ≤ s.params.maxPayload →
    0 < s.params.syncLen → 13 + len.toNat + s.params.syncLen ≤ 25 →
    (∀ k, len.toNat ≤ k → k < 8 → payloadByte data k = 0) →
    ∃ u e t, exec (.encA len b addr data) s = .next u ∧ u.resps = s.resps ++ [e] ∧
      e.outLen.toNat = 13 + len.toNat + s.params.syncLen ∧
      execAll (pushS (e.out.toList.take e.outLen.toNat)) u = .next t ∧
      (newResponses u t).map Response.status =
        List.replicate (12 + len.toNat + s.params.syncLen) Status.needMore ++ [Status.complete] ∧
      ∃ q, t.resps.getLast? = some q ∧ q.fields.node.toNat = b.toNat ∧ q.fields.node2 = b ∧ q.fields.address = addr ∧
        q.fields.length.toNat = len.toNat ∧
        (∀ k : Fin 8, k.val < len.toNat → q.fields.payload[k] = payloadByte data k.val) ∧ q.fields.isResponse = 0

/-- R127: the sync round trip, the payload padded to 8 bytes. -/
def Obligations.SyncRoundTrip : Prop :=
  ∀ (s : State) (len : BitVec 4) (b : Byte) (addr : BitVec 24) (sub : BitVec 4) (cmd : BitVec 3) (pend : BitVec 1)
    (data : BitVec 64),
    s.variant = .sync → s.pcnt = 0 ∨ s.pst = .complete → len.toNat ≤ s.params.maxPayload →
    (∀ k, len.toNat ≤ k → k < 8 → payloadByte data k = 0) → addr.toNat ≤ 0xFFF → cmd ≠ 7 →
    ∃ u e t, exec (.encS len b addr sub cmd pend data) s = .next u ∧ u.resps = s.resps ++ [e] ∧
      execAll (pushS (e.out.toList.take e.outLen.toNat)) u = .next t ∧
      (newResponses u t).map Response.status = List.replicate 13 Status.needMore ++ [Status.complete] ∧
      ∃ q, t.resps.getLast? = some q ∧ q.fields.node.toNat = b.toNat ∧ q.fields.subnode = sub ∧
        q.fields.address = addr ∧ q.fields.cmd = cmd ∧ q.fields.pending = pend ∧ q.fields.length = 8 ∧
        ∀ k : Fin 8, q.fields.payload[k] = if k.val < len.toNat then payloadByte data k.val else 0

/-- R110, R228: with `P_CRC_INIT = 0x0000`, 14 zero bytes are received as a correct sync frame whose fields are all 0
but its length; with the alternative `P_CRC_INIT = 0xFFFF` they fail the check. -/
def Obligations.AllZeroSyncFrameCompletes : Prop :=
  ∀ s : State, s.variant = .sync → s.pcnt = 0 ∨ s.pst = .complete → 0 ∉ s.params.respCmds →
    s.params.crcPoly = 0x1021 → s.params.crcXorOut = 0x0000 →
    ∃ t, execAll (pushS (List.replicate 14 0x00)) s = .next t ∧
      (s.params.crcInit = 0x0000 →
        (newResponses s t).map Response.status = List.replicate 13 Status.needMore ++ [Status.complete] ∧
        ∃ q, t.resps.getLast? = some q ∧ q.fields = { blankFields with length := 8 }) ∧
      (s.params.crcInit = 0xFFFF →
        (newResponses s t).map Response.status = List.replicate 13 Status.needMore ++ [Status.framingError] ∧
        ∃ q, t.resps.getLast? = some q ∧ q.feState = 3)

/-- R167: a valid async frame pushed at `PCNT = 1` whose byte 0 is not the function code is received after one framing
error, on its byte 0; the latch then holds exactly that frame. -/
def Obligations.AsyncResynchronisesAfterFramingError : Prop :=
  ∀ (s : State) (xs : List Byte), s.params.Fits → s.variant = .async → s.pcnt = 1 → s.pst = .awaitFunc →
    AsyncFrameOk s.params (bufOf xs) xs.length → xs.getD 0 0 ≠ s.params.func →
    ∃ t, execAll (pushS xs) s = .next t ∧
      (newResponses s t).map Response.status =
        Status.framingError :: List.replicate (xs.length - 2) Status.needMore ++ [Status.complete] ∧
      t.flLen.toNat = xs.length ∧ ∀ i, i < xs.length → byteAt t.fl i = xs.getD i 0

/-- R169: single-bit corruption of an aligned sync frame is always detected, by the check of its last byte, with
`fe_state = AWAIT_TRAILER`, for the polynomial of R100 and any initial value and final exclusive-or. -/
def Obligations.SyncSingleBitCorruptionDetected : Prop :=
  ∀ (s : State) (ws : List Word) (i j : Nat), s.params.crcPoly = 0x1021 → s.variant = .sync →
    s.pcnt = 0 ∨ s.pst = .complete → ws.length = 6 → i < 14 → j < 8 →
    ∃ t, execAll (pushS (flipBit (syncFrame s.params ws) i j)) s = .next t ∧
      (newResponses s t).map Response.status = List.replicate 13 Status.needMore ++ [Status.framingError] ∧
      ∃ q, t.resps.getLast? = some q ∧ q.feState = 3

/-- R226, R31: any frame under construction ends within 25 bytes of its start: among the responses to 25 `PUSH`
commands in a row one is `COMPLETE` or `FRAMING_ERROR`. -/
def Obligations.FrameEndsWithinTwentyFiveBytes : Prop :=
  ∀ (s : State) (bs : List Byte), BlockInv s → bs.length = 25 →
    ∃ t, execAll (pushS bs) s = .next t ∧
      ∃ r ∈ newResponses s t, r.status = .complete ∨ r.status = .framingError

/-! ## The build parameters -/

/-- R6: a state is built with any values of the parameters and either variant, and the values of the column *value* are
those of `State.reset`. -/
def Obligations.BuildParametersAreConfiguration : Prop :=
  (∀ (ps : Params) (v : Variant), (State.powerOn ps v).params = ps ∧ (State.powerOn ps v).variant = v) ∧
  State.reset.params.func.toNat = 43 ∧ State.reset.params.typeCode.toNat = 13 ∧
  State.reset.params.syncByte = 0x55 ∧ State.reset.params.syncLen = 4 ∧ State.reset.params.maxPayload = 8 ∧
  State.reset.params.crcPoly = 0x1021 ∧ State.reset.params.crcInit = 0x0000 ∧
  State.reset.params.crcXorOut = 0x0000 ∧ State.reset.params.flagRequest = 0x00 ∧
  State.reset.params.indexOrder = .be ∧
  ∀ c : BitVec 3, c ∈ State.reset.params.respCmds ↔ c = 3 ∨ c = 4 ∨ c = 5 ∨ c = 6
end

