-- ==== Sys2Proof/Laws/Bytes.lean ====
section
/-! SUPPORT. Reads of a buffer after each way of building one, and the two halves of a word. -/
namespace Sys2Proof.Machine

theorem byteAt_eq (b : Buf) (i : Nat) (h : i < 25) : byteAt b i = b[i] := by
  simp [byteAt, h]

@[simp] theorem byteAt_out (b : Buf) (i : Nat) (h : 25 ≤ i) : byteAt b i = 0 := by
  simp [byteAt, Vector.getElem?_eq_none h]

theorem buf_ext {a b : Buf} (h : ∀ i, i < 25 → byteAt a i = byteAt b i) : a = b := by
  ext i hi : 1
  simpa [byteAt_eq, hi] using h i hi

theorem byteAt_setByte (b : Buf) (p i : Nat) (v : Byte) (h : p < 25) :
    byteAt (setByte b p v) i = if i = p then v else byteAt b i := by
  by_cases hi : i < 25
  · simp [byteAt_eq, hi, setByte, Vector.getElem_setIfInBounds, eq_comm]
  · rw [byteAt_out _ _ (by omega), byteAt_out _ _ (by omega), if_neg (by omega)]

@[simp] theorem byteAt_setByte_self (b : Buf) (p : Nat) (v : Byte) (h : p < 25) :
    byteAt (setByte b p v) p = v := by
  simp [byteAt_setByte, h]

theorem byteAt_setByte_ne (b : Buf) (p i : Nat) (v : Byte) (h : i ≠ p) :
    byteAt (setByte b p v) i = byteAt b i := by
  by_cases hp : p < 25
  · simp [byteAt_setByte, hp, h]
  · simp [setByte, Vector.setIfInBounds, Array.setIfInBounds, hp]

theorem byteAt_copyFront (src dst : Buf) (n i : Nat) :
    byteAt (copyFront src dst n) i = if i < n then byteAt src i else byteAt dst i := by
  by_cases hi : i < 25
  · rw [byteAt_eq _ _ hi]
    simp [copyFront]
  · rw [byteAt_out _ _ (by omega), byteAt_out _ _ (by omega), byteAt_out _ _ (by omega), ite_self]

theorem byteAt_frontBytes (b : Buf) (n i : Nat) :
    byteAt (frontBytes b n) i = if i < n then byteAt b i else 0 := by
  by_cases hi : i < 25
  · rw [byteAt_eq _ _ hi]
    simp [frontBytes]
  · rw [byteAt_out _ _ (by omega), byteAt_out _ _ (by omega), ite_self]

theorem byteAt_bufOf (l : List Byte) (i : Nat) (h : i < 25) : byteAt (bufOf l) i = l.getD i 0 := by
  rw [byteAt_eq _ _ h]
  simp [bufOf]

@[simp] theorem byteAt_zero (i : Nat) : byteAt Buf.zero i = 0 := by
  by_cases hi : i < 25
  · rw [byteAt_eq _ _ hi]
    simp [Buf.zero]
  · rw [byteAt_out _ _ (by omega)]

theorem toNat_wordOf (h l : Byte) : (wordOf h l).toNat = 256 * h.toNat + l.toNat := by
  have hl := l.isLt
  have : (wordOf h l).toNat = h.toNat <<< 8 ||| l.toNat := BitVec.toNat_append h l
  rw [this, ← Nat.shiftLeft_add_eq_or_of_lt hl, Nat.shiftLeft_eq]
  omega

theorem toNat_hiByte (w : Word) : (hiByte w).toNat = w.toNat / 256 := by
  have := w.isLt
  simp only [hiByte, BitVec.extractLsb'_toNat, Nat.shiftRight_eq_div_pow]
  omega

theorem toNat_loByte (w : Word) : (loByte w).toNat = w.toNat % 256 := by
  simp [loByte, BitVec.extractLsb'_toNat]

@[simp] theorem hiByte_wordOf (h l : Byte) : hiByte (wordOf h l) = h := by
  have := l.isLt
  exact BitVec.eq_of_toNat_eq (by rw [toNat_hiByte, toNat_wordOf]; omega)

@[simp] theorem loByte_wordOf (h l : Byte) : loByte (wordOf h l) = l := by
  have := l.isLt
  exact BitVec.eq_of_toNat_eq (by rw [toNat_loByte, toNat_wordOf]; omega)

@[simp] theorem wordOf_hiByte_loByte (w : Word) : wordOf (hiByte w) (loByte w) = w :=
  BitVec.eq_of_toNat_eq (by rw [toNat_wordOf, toNat_hiByte, toNat_loByte]; omega)

end Sys2Proof.Machine
end

