-- ==== Sys2Proof/Laws/Crc.lean ====
section
/-! SUPPORT. The byte and word steps are linear over exclusive-or, and what a step does when the byte cancels the high
byte of the register. -/
namespace Sys2Proof.Machine

theorem shiftLeft_one_xor (x y : Word) : (x ^^^ y) <<< 1 = (x <<< 1) ^^^ (y <<< 1) := by
  ext j hj
  simp
  cases decide (j = 0) <;> simp

theorem crcBit_xor (poly : Word) (b b' : Byte) (c c' : Word) (i : Nat) :
    crcBit poly (b ^^^ b') (c ^^^ c') i = crcBit poly b c i ^^^ crcBit poly b' c' i := by
  unfold crcBit
  simp only [BitVec.getLsbD_xor, shiftLeft_one_xor]
  generalize c <<< 1 = x, c' <<< 1 = y
  have h1 : x ^^^ y ^^^ poly = x ^^^ poly ^^^ y := by ac_rfl
  have h2 : x ^^^ poly ^^^ (y ^^^ poly) = x ^^^ y := by
    rw [show x ^^^ poly ^^^ (y ^^^ poly) = x ^^^ y ^^^ (poly ^^^ poly) by ac_rfl, BitVec.xor_self, BitVec.xor_zero]
  cases c.getLsbD 15 <;> cases c'.getLsbD 15 <;> cases b.getLsbD i <;> cases b'.getLsbD i <;>
    simp [h1, h2, BitVec.xor_assoc, BitVec.xor_comm poly]

theorem foldl_crcBit_xor (poly : Word) (l : List Nat) (b b' : Byte) (c c' : Word) :
    l.foldl (crcBit poly (b ^^^ b')) (c ^^^ c') = l.foldl (crcBit poly b) c ^^^ l.foldl (crcBit poly b') c' := by
  induction l generalizing c c' with
  | nil => rfl
  | cons i l ih => simp only [List.foldl_cons, crcBit_xor, ih]

/-- The byte step is linear (the ground of R108). -/
theorem step8_xor (poly c c' : Word) (b b' : Byte) :
    step8 poly (c ^^^ c') (b ^^^ b') = step8 poly c b ^^^ step8 poly c' b' :=
  foldl_crcBit_xor _ _ _ _ _ _

theorem hiByte_xor (a b : Word) : hiByte (a ^^^ b) = hiByte a ^^^ hiByte b := by
  ext i hi
  simp [hiByte]

theorem loByte_xor (a b : Word) : loByte (a ^^^ b) = loByte a ^^^ loByte b := by
  ext i hi
  simp [loByte]

/-- The word step is linear (the ground of R108). -/
theorem step16_xor (poly c c' w w' : Word) :
    step16 poly (c ^^^ c') (w ^^^ w') = step16 poly c w ^^^ step16 poly c' w' := by
  simp only [step16, hiByte_xor, loByte_xor, step8_xor]

/-- A byte equal to the high byte of the register cancels it: eight plain shifts. -/
theorem step8_hiByte (poly c : Word) : step8 poly c (hiByte c) = c <<< 8 := by
  simp [step8, crcBit, hiByte, ← BitVec.shiftLeft_add]

theorem hiByte_shiftLeft_eight (c : Word) : hiByte (c <<< 8) = loByte c := by
  ext i hi
  simp [hiByte, loByte]
  omega

/-- A word equal to the register cancels it (the ground of R109). -/
theorem step16_self (poly c : Word) : step16 poly c c = 0 := by
  rw [step16, step8_hiByte, ← hiByte_shiftLeft_eight, step8_hiByte, ← BitVec.shiftLeft_add]
  simp

theorem crcFold_nil (poly c : Word) : crcFold poly c [] = c := rfl

theorem crcFold_cons (poly c w : Word) (ws : List Word) :
    crcFold poly c (w :: ws) = crcFold poly (step16 poly c w) ws := rfl

theorem crcFold_append (poly c : Word) (ws vs : List Word) :
    crcFold poly c (ws ++ vs) = crcFold poly (crcFold poly c ws) vs :=
  List.foldl_append

/-- A build whose final exclusive-or is 0, as R6 gives it: the frame check is the fold alone. -/
theorem crc16_eq {ps : Params} (h : ps.crcXorOut = 0) (ws : List Word) :
    crc16 ps ws = crcFold ps.crcPoly ps.crcInit ws := by
  simp [crc16, h]

@[simp] theorem crcRom_length (poly : Word) : (crcRom poly).length = 256 := by
  simp [crcRom]

/-- An entry of the lookup table (R103). -/
theorem crcRom_getD (poly : Word) {i : Nat} (h : i < 256) :
    (crcRom poly).getD i 0 = step8 poly 0 (BitVec.ofNat 8 i) := by
  simp [crcRom, List.getD_eq_getElem?_getD, h]

end Sys2Proof.Machine
end

