-- ==== Sys2Proof/Laws/Decode.lean ====
section
/-! SUPPORT. The fields of a word put together from fields, and the word put together from its own fields. -/
namespace Sys2Proof

theorem toNat_append_add {n m : Nat} (x : BitVec n) (y : BitVec m) : (x ++ y).toNat = x.toNat * 2 ^ m + y.toNat := by
  rw [BitVec.toNat_append, ← Nat.shiftLeft_add_eq_or_of_lt y.isLt, Nat.shiftLeft_eq]

section Fields

variable (data : BitVec 64) (pend : BitVec 1) (cmd : BitVec 3) (sub : BitVec 4) (addr : BitVec 24) (w : Word)
  (b : Byte) (len op : BitVec 4)

/-- A command word as a number, each field at its place (R70). -/
theorem toNat_cmdWordOf : (cmdWordOf data pend cmd sub addr w b len op).toNat =
    data.toNat * 2 ^ 64 + pend.toNat * 2 ^ 63 + cmd.toNat * 2 ^ 60 + sub.toNat * 2 ^ 56 + addr.toNat * 2 ^ 32 +
      w.toNat * 2 ^ 16 + b.toNat * 2 ^ 8 + len.toNat * 2 ^ 4 + op.toNat := by
  have h : (cmdWordOf data pend cmd sub addr w b len op).toNat =
      (data ++ pend ++ cmd ++ sub ++ addr ++ w ++ b ++ len ++ op).toNat := rfl
  rw [h]
  simp only [toNat_append_add]
  ring

/-- The masks of R72 act field by field. -/
theorem cmdWordOf_and (data' : BitVec 64) (pend' : BitVec 1) (cmd' : BitVec 3) (sub' : BitVec 4) (addr' : BitVec 24)
    (w' : Word) (b' : Byte) (len' op' : BitVec 4) :
    cmdWordOf data pend cmd sub addr w b len op &&& cmdWordOf data' pend' cmd' sub' addr' w' b' len' op' =
      cmdWordOf (data &&& data') (pend &&& pend') (cmd &&& cmd') (sub &&& sub') (addr &&& addr') (w &&& w')
        (b &&& b') (len &&& len') (op &&& op') := by
  have h : ∀ x y : BitVec (64 + 1 + 3 + 4 + 24 + 16 + 8 + 4 + 4),
      x = data ++ pend ++ cmd ++ sub ++ addr ++ w ++ b ++ len ++ op →
      y = data' ++ pend' ++ cmd' ++ sub' ++ addr' ++ w' ++ b' ++ len' ++ op' →
      x &&& y = (data &&& data') ++ (pend &&& pend') ++ (cmd &&& cmd') ++ (sub &&& sub') ++ (addr &&& addr') ++
        (w &&& w') ++ (b &&& b') ++ (len &&& len') ++ (op &&& op') := by
    rintro x y rfl rfl
    simp only [BitVec.and_append]
  exact h _ _ rfl rfl

@[simp] theorem opField_cmdWordOf : opField (cmdWordOf data pend cmd sub addr w b len op) = op := by
  apply BitVec.eq_of_toNat_eq
  rw [opField, BitVec.extractLsb'_toNat, toNat_cmdWordOf, Nat.shiftRight_eq_div_pow]
  have := op.isLt
  omega

@[simp] theorem lenField_cmdWordOf : lenField (cmdWordOf data pend cmd sub addr w b len op) = len := by
  apply BitVec.eq_of_toNat_eq
  rw [lenField, BitVec.extractLsb'_toNat, toNat_cmdWordOf, Nat.shiftRight_eq_div_pow]
  have := op.isLt
  have := len.isLt
  omega

@[simp] theorem bField_cmdWordOf : bField (cmdWordOf data pend cmd sub addr w b len op) = b := by
  apply BitVec.eq_of_toNat_eq
  rw [bField, BitVec.extractLsb'_toNat, toNat_cmdWordOf, Nat.shiftRight_eq_div_pow]
  have := op.isLt
  have := len.isLt
  have := b.isLt
  omega

@[simp] theorem wField_cmdWordOf : wField (cmdWordOf data pend cmd sub addr w b len op) = w := by
  apply BitVec.eq_of_toNat_eq
  rw [wField, BitVec.extractLsb'_toNat, toNat_cmdWordOf, Nat.shiftRight_eq_div_pow]
  have := op.isLt
  have := len.isLt
  have := b.isLt
  have := w.isLt
  omega

@[simp] theorem addrField_cmdWordOf : addrField (cmdWordOf data pend cmd sub addr w b len op) = addr := by
  apply BitVec.eq_of_toNat_eq
  rw [addrField, BitVec.extractLsb'_toNat, toNat_cmdWordOf, Nat.shiftRight_eq_div_pow]
  have := op.isLt
  have := len.isLt
  have := b.isLt
  have := w.isLt
  have := addr.isLt
  omega

@[simp] theorem subField_cmdWordOf : subField (cmdWordOf data pend cmd sub addr w b len op) = sub := by
  apply BitVec.eq_of_toNat_eq
  rw [subField, BitVec.extractLsb'_toNat, toNat_cmdWordOf, Nat.shiftRight_eq_div_pow]
  have := op.isLt
  have := len.isLt
  have := b.isLt
  have := w.isLt
  have := addr.isLt
  have := sub.isLt
  omega

@[simp] theorem cmdField_cmdWordOf : cmdField (cmdWordOf data pend cmd sub addr w b len op) = cmd := by
  apply BitVec.eq_of_toNat_eq
  rw [cmdField, BitVec.extractLsb'_toNat, toNat_cmdWordOf, Nat.shiftRight_eq_div_pow]
  have := op.isLt
  have := len.isLt
  have := b.isLt
  have := w.isLt
  have := addr.isLt
  have := sub.isLt
  have := cmd.isLt
  omega

@[simp] theorem pendField_cmdWordOf : pendField (cmdWordOf data pend cmd sub addr w b len op) = pend := by
  apply BitVec.eq_of_toNat_eq
  rw [pendField, BitVec.extractLsb'_toNat, toNat_cmdWordOf, Nat.shiftRight_eq_div_pow]
  have := op.isLt
  have := len.isLt
  have := b.isLt
  have := w.isLt
  have := addr.isLt
  have := sub.isLt
  have := cmd.isLt
  have := pend.isLt
  omega

@[simp] theorem dataField_cmdWordOf : dataField (cmdWordOf data pend cmd sub addr w b len op) = data := by
  apply BitVec.eq_of_toNat_eq
  rw [dataField, BitVec.extractLsb'_toNat, toNat_cmdWordOf, Nat.shiftRight_eq_div_pow]
  have := op.isLt
  have := len.isLt
  have := b.isLt
  have := w.isLt
  have := addr.isLt
  have := sub.isLt
  have := cmd.isLt
  have := pend.isLt
  have := data.isLt
  omega

end Fields

theorem nat_div_split (n a b : Nat) : n / 2 ^ (a + b) = n / 2 ^ a / 2 ^ b := by
  rw [Nat.div_div_eq_div_mul, Nat.pow_add]

/-- A word is its own fields put together: the fields of R70 cover all 128 bits. -/
theorem cmdWordOf_fields (c : CmdWord) : cmdWordOf (dataField c) (pendField c) (cmdField c) (subField c) (addrField c)
    (wField c) (bField c) (lenField c) (opField c) = c := by
  apply BitVec.eq_of_toNat_eq
  have hc := c.isLt
  simp only [toNat_cmdWordOf, dataField, pendField, cmdField, subField, addrField, wField, bField, lenField, opField,
    BitVec.extractLsb'_toNat, Nat.shiftRight_eq_div_pow]
  generalize c.toNat = n at hc
  have h8 := nat_div_split n 4 4
  have h16 := nat_div_split n 8 8
  have h32 := nat_div_split n 16 16
  have h56 := nat_div_split n 32 24
  have h60 := nat_div_split n 56 4
  have h63 := nat_div_split n 60 3
  have h64 := nat_div_split n 63 1
  have hlt : n / 2 ^ 64 < 2 ^ 64 := Nat.div_lt_of_lt_mul (by simpa using hc)
  simp only [Nat.reduceAdd] at h8 h16 h32 h56 h60 h63 h64
  have m0 := Nat.div_add_mod n (2 ^ 4)
  have m4 := Nat.div_add_mod (n / 2 ^ 4) (2 ^ 4)
  have m8 := Nat.div_add_mod (n / 2 ^ 8) (2 ^ 8)
  have m16 := Nat.div_add_mod (n / 2 ^ 16) (2 ^ 16)
  have m32 := Nat.div_add_mod (n / 2 ^ 32) (2 ^ 24)
  have m56 := Nat.div_add_mod (n / 2 ^ 56) (2 ^ 4)
  have m60 := Nat.div_add_mod (n / 2 ^ 60) (2 ^ 3)
  have m63 := Nat.div_add_mod (n / 2 ^ 63) (2 ^ 1)
  rw [← h8] at m4
  rw [← h16] at m8
  rw [← h32] at m16
  rw [← h56] at m32
  rw [← h60] at m56
  rw [← h63] at m60
  rw [← h64] at m63
  rw [Nat.mod_eq_of_lt hlt]
  simp only [pow_zero, Nat.div_one]
  clear h8 h16 h32 h56 h60 h63 h64 hc hlt
  linarith

/-- Two command words are equal when their fields are. -/
theorem cmdWordOf_inj {data data' : BitVec 64} {pend pend' : BitVec 1} {cmd cmd' : BitVec 3} {sub sub' : BitVec 4}
    {addr addr' : BitVec 24} {w w' : Word} {b b' : Byte} {len len' op op' : BitVec 4} :
    cmdWordOf data pend cmd sub addr w b len op = cmdWordOf data' pend' cmd' sub' addr' w' b' len' op' ↔
      data = data' ∧ pend = pend' ∧ cmd = cmd' ∧ sub = sub' ∧ addr = addr' ∧ w = w' ∧ b = b' ∧ len = len' ∧
        op = op' := by
  constructor
  · intro h
    exact ⟨by simpa using congrArg dataField h, by simpa using congrArg pendField h,
      by simpa using congrArg cmdField h, by simpa using congrArg subField h, by simpa using congrArg addrField h,
      by simpa using congrArg wField h, by simpa using congrArg bField h, by simpa using congrArg lenField h,
      by simpa using congrArg opField h⟩
  · rintro ⟨rfl, rfl, rfl, rfl, rfl, rfl, rfl, rfl, rfl⟩
    rfl

/-- A bare opcode as a command word (R72). -/
theorem setWidth_op (op : BitVec 4) : op.setWidth 128 = cmdWordOf 0 0 0 0 0 0 0 0 op := by
  apply BitVec.eq_of_toNat_eq
  rw [toNat_cmdWordOf]
  have := op.isLt
  simp
  omega

theorem and_allOnes {n : Nat} (x : BitVec n) : x &&& BitVec.allOnes n = x := by simp

/-- The mask of the reserved opcodes sees the opcode alone (R72, R74). -/
theorem and_opMask (c : CmdWord) : c &&& 0xF = (opField c).setWidth 128 := by
  have h : (0xF : CmdWord) = cmdWordOf 0 0 0 0 0 0 0 0 (BitVec.allOnes 4) := by decide
  conv_lhs => rw [← cmdWordOf_fields c, h, cmdWordOf_and, and_allOnes]
  rw [setWidth_op]
  simp

/-- A word of a reserved opcode as a number (R74). -/
theorem toNat_encode_reservedAB (low : BitVec 1) (rest : BitVec 124) :
    (encode (.reservedAB low rest)).toNat = rest.toNat * 16 + 10 + low.toNat := by
  have h : (encode (.reservedAB low rest)).toNat = (rest ++ (0b101 : BitVec 3) ++ low).toNat := rfl
  rw [h, toNat_append_add, toNat_append_add]
  simp
  ring

/-- A word of a reserved opcode as a number (R74). -/
theorem toNat_encode_reservedCF (low : BitVec 2) (rest : BitVec 124) :
    (encode (.reservedCF low rest)).toNat = rest.toNat * 16 + 12 + low.toNat := by
  have h : (encode (.reservedCF low rest)).toNat = (rest ++ (0b11 : BitVec 2) ++ low).toNat := rfl
  rw [h, toNat_append_add, toNat_append_add]
  simp
  ring

/-- Decoding gives a command exactly when the fixed bits are right (R77). -/
theorem decode_eq_ok_iff {c : CmdWord} {i : Instr} : decode c = .ok i ↔
    c &&& fixedMask (opField c) = (opField c).setWidth 128 ∧ instrOf (opField c) c = i := by
  unfold decode
  split <;> simp [*]

end Sys2Proof
end

