-- ==== Sys2Proof/Laws/Encoder.lean ====
section
/-! SUPPORT. The operand checks as propositions, and the bytes and words of the frames the encoder builds. -/
namespace Sys2Proof.Machine

/-! ### Operand checks (R76) -/

theorem payloadBad_iff (ps : Params) (len : BitVec 4) (data : BitVec 64) : payloadBad ps len data = true ↔
    ps.maxPayload < len.toNat ∨ ∃ k, len.toNat ≤ k ∧ k < 8 ∧ payloadByte data k ≠ 0 := by
  simp only [payloadBad, Bool.or_eq_true, decide_eq_true_iff, List.any_eq_true, List.mem_range, Bool.and_eq_true]
  apply or_congr Iff.rfl
  constructor
  · rintro ⟨k, hk, h1, h2⟩
    exact ⟨k, h1, hk, h2⟩
  · rintro ⟨k, h1, hk, h2⟩
    exact ⟨k, hk, h1, h2⟩

theorem payloadBad_eq_false {ps : Params} {len : BitVec 4} {data : BitVec 64} (hl : len.toNat ≤ ps.maxPayload)
    (ht : ∀ k, len.toNat ≤ k → k < 8 → payloadByte data k = 0) : payloadBad ps len data = false := by
  rw [Bool.eq_false_iff, Ne, payloadBad_iff]
  push Not
  exact ⟨hl, ht⟩

theorem encSOperandsBad_iff (ps : Params) (len : BitVec 4) (addr : BitVec 24) (cmd : BitVec 3) (data : BitVec 64) :
    encSOperandsBad ps len addr cmd data = true ↔
      payloadBad ps len data = true ∨ 0xFFF < addr.toNat ∨ cmd = 7 := by
  simp only [encSOperandsBad, Bool.or_eq_true]
  rw [or_assoc]
  exact or_congr_right (or_congr decide_eq_true_iff decide_eq_true_iff)

theorem encSOperandsBad_eq_false {ps : Params} {len : BitVec 4} {addr : BitVec 24} {cmd : BitVec 3} {data : BitVec 64}
    (hl : len.toNat ≤ ps.maxPayload) (ht : ∀ k, len.toNat ≤ k → k < 8 → payloadByte data k = 0) (ha : addr.toNat ≤ 0xFFF)
    (hc : cmd ≠ 7) : encSOperandsBad ps len addr cmd data = false := by
  rw [Bool.eq_false_iff, Ne, encSOperandsBad_iff, payloadBad_eq_false hl ht]
  rintro (h | h | h)
  · cases h
  · omega
  · exact hc h

/-- The shift of `WellFormed` and the byte by byte check of R76 agree. -/
theorem payloadFits_eq (ps : Params) (len : BitVec 4) (data : BitVec 64) :
    payloadFits ps len data = !payloadBad ps len data := by
  rw [Bool.eq_iff_iff]
  simp only [payloadFits, Bool.and_eq_true, Bool.not_eq_true', Bool.eq_false_iff, Ne, payloadBad_iff,
    decide_eq_true_iff]
  push Not
  apply and_congr_right
  intro hl
  constructor
  · intro h k h1 h2
    apply BitVec.eq_of_getLsbD_eq
    intro i hi
    have := congrArg (fun x => x.getLsbD (8 * k + i - 8 * len.toNat)) h
    simp at this
    simp [payloadByte, hi]
    rw [show 8 * len.toNat + (8 * k + i - 8 * len.toNat) = 8 * k + i by omega] at this
    exact this
  · intro h
    apply BitVec.eq_of_getLsbD_eq
    intro i hi
    simp
    by_cases hx : 8 * len.toNat + i < 64
    · have := congrArg (fun x => x.getLsbD ((8 * len.toNat + i) % 8))
        (h ((8 * len.toNat + i) / 8) (by omega) (by omega))
      simp [payloadByte] at this
      have := this (Nat.mod_lt _ (by omega))
      rwa [show 8 * ((8 * len.toNat + i) / 8) + i % 8 = 8 * len.toNat + i by omega] at this
    · exact BitVec.getLsbD_of_ge _ _ (by omega)

/-! ### Async frame (R78, R120) -/

@[simp] theorem payloadBytes_length (len : BitVec 4) (data : BitVec 64) :
    (payloadBytes len data).length = len.toNat := by
  simp [payloadBytes]

theorem payloadBytes_getD (len : BitVec 4) (data : BitVec 64) (k : Nat) (h : k < len.toNat) :
    (payloadBytes len data).getD k 0 = payloadByte data k := by
  simp [payloadBytes, List.getD_eq_getElem?_getD, h]

@[simp] theorem asyncHeader_length (ps : Params) (node : Byte) (addr : BitVec 24) (n : Nat) :
    (asyncHeader ps node addr n).length = 13 := by
  cases h : ps.indexOrder <;> simp [asyncHeader, indexBytes, h]

@[simp] theorem asyncFrame_length (ps : Params) (node : Byte) (addr : BitVec 24) (payload : List Byte) :
    (asyncFrame ps node addr payload).length = 13 + payload.length + ps.syncLen := by
  simp [asyncFrame]
  omega

theorem asyncFrame_getD_header (ps : Params) (node : Byte) (addr : BitVec 24) (payload : List Byte) (i : Nat) (h : i < 13) :
    (asyncFrame ps node addr payload).getD i 0 = (asyncHeader ps node addr payload.length).getD i 0 := by
  rw [asyncFrame, List.append_assoc, List.getD_append _ _ _ _ (by simpa using h)]

theorem asyncFrame_getD_payload (ps : Params) (node : Byte) (addr : BitVec 24) (payload : List Byte) (k : Nat)
    (h : k < payload.length) : (asyncFrame ps node addr payload).getD (13 + k) 0 = payload.getD k 0 := by
  rw [asyncFrame, List.append_assoc, List.getD_append_right _ _ _ _ (by simp), List.getD_append _ _ _ _ (by simpa),
    asyncHeader_length, Nat.add_sub_cancel_left]

theorem asyncFrame_getD_trailer (ps : Params) (node : Byte) (addr : BitVec 24) (payload : List Byte) (k : Nat)
    (h : k < ps.syncLen) :
    (asyncFrame ps node addr payload).getD (13 + payload.length + k) 0 = ps.syncByte := by
  rw [asyncFrame, List.getD_append_right _ _ _ _ (by simp), List.length_append, asyncHeader_length,
    Nat.add_sub_cancel_left]
  simp [List.getD_eq_getElem?_getD, h]

/-! ### Sync frame (R82 to R87, R122) -/

theorem headerHigh_toNat (node : Byte) (sub : BitVec 4) :
    (headerHigh node sub).toNat = 16 * node.toNat + sub.toNat := by
  have hn := node.isLt
  have hs := sub.isLt
  simp [headerHigh, BitVec.toNat_or]
  rw [Nat.mod_eq_of_lt (a := node.toNat) (by omega), Nat.mod_eq_of_lt (a := sub.toNat) (by omega),
    Nat.mod_eq_of_lt (by rw [Nat.shiftLeft_eq]; omega), ← Nat.shiftLeft_add_eq_or_of_lt (i := 4) (by omega),
    Nat.shiftLeft_eq]
  omega

theorem headerLow_toNat (addr : BitVec 24) (cmd : BitVec 3) (pend : BitVec 1) (h : addr.toNat ≤ 0xFFF) :
    (headerLow addr cmd pend).toNat = 16 * addr.toNat + 2 * cmd.toNat + pend.toNat := by
  have h1 := cmd.isLt
  have h2 := pend.isLt
  simp [headerLow, BitVec.toNat_or, BitVec.extractLsb'_toNat]
  rw [Nat.mod_eq_of_lt (a := addr.toNat) (by omega), Nat.mod_eq_of_lt (a := addr.toNat) (by omega),
    Nat.mod_eq_of_lt (a := cmd.toNat) (by omega), Nat.mod_eq_of_lt (a := pend.toNat) (by omega),
    Nat.mod_eq_of_lt (a := addr.toNat <<< 4) (by rw [Nat.shiftLeft_eq]; omega),
    Nat.mod_eq_of_lt (a := cmd.toNat <<< 1) (by rw [Nat.shiftLeft_eq]; omega), Nat.lor_assoc,
    ← Nat.shiftLeft_add_eq_or_of_lt (i := 1) (by omega),
    ← Nat.shiftLeft_add_eq_or_of_lt (i := 4) (by rw [Nat.shiftLeft_eq]; omega), Nat.shiftLeft_eq, Nat.shiftLeft_eq]
  omega

/-- The 14 bytes of a sync frame, one by one. -/
theorem syncFrame_six (ps : Params) (a b c d e f : Word) : syncFrame ps [a, b, c, d, e, f] =
    [hiByte a, loByte a, hiByte b, loByte b, hiByte c, loByte c, hiByte d, loByte d, hiByte e, loByte e, hiByte f,
      loByte f, hiByte (crc16 ps [a, b, c, d, e, f]), loByte (crc16 ps [a, b, c, d, e, f])] := rfl

/-! ### What the two commands answer -/

theorem execEncA_ok {s : State} {len : BitVec 4} {data : BitVec 64} (h : payloadBad s.params len data = false) (b : Byte)
    (addr : BitVec 24) :
    execEncA len b addr data s = answerFrameBytes s (asyncFrame s.params b addr (payloadBytes len data)) := by
  rw [execEncA, encAOperandsBad, h]
  rfl

theorem execEncA_bad {s : State} {len : BitVec 4} {data : BitVec 64} (h : payloadBad s.params len data = true) (b : Byte)
    (addr : BitVec 24) : execEncA len b addr data s = answerInvalidArgument s := by
  rw [execEncA, encAOperandsBad, h]
  rfl

theorem execEncS_ok {s : State} {len : BitVec 4} {addr : BitVec 24} {cmd : BitVec 3} {data : BitVec 64}
    (h : encSOperandsBad s.params len addr cmd data = false) (b : Byte) (sub : BitVec 4) (pend : BitVec 1) :
    execEncS len b addr sub cmd pend data s =
      answerFrameBytes s (syncFrame s.params (syncWords b sub addr cmd pend (paddedByte len data))) := by
  rw [execEncS, h]
  rfl

theorem execEncS_bad {s : State} {len : BitVec 4} {addr : BitVec 24} {cmd : BitVec 3} {data : BitVec 64}
    (h : encSOperandsBad s.params len addr cmd data = true) (b : Byte) (sub : BitVec 4) (pend : BitVec 1) :
    execEncS len b addr sub cmd pend data s = answerInvalidArgument s := by
  rw [execEncS, h]
  rfl

end Sys2Proof.Machine
end

