-- ==== Sys2Proof/Laws/State.lean ====
section
/-! SUPPORT. What each update of the state leaves in each field, true by rfl, so that no proof unfolds a record. -/
namespace Sys2Proof.Machine

/-! ### `clearParser` (R141, R162) -/

@[simp] theorem clearParser_params (s : State) : (clearParser s).params = s.params := rfl
@[simp] theorem clearParser_variant (s : State) : (clearParser s).variant = s.variant := rfl
@[simp] theorem clearParser_crc (s : State) : (clearParser s).crc = s.crc := rfl
@[simp] theorem clearParser_pst (s : State) : (clearParser s).pst = .awaitFunc := rfl
@[simp] theorem clearParser_pcnt (s : State) : (clearParser s).pcnt = 0 := rfl
@[simp] theorem clearParser_pbuf (s : State) : (clearParser s).pbuf = s.pbuf := rfl
@[simp] theorem clearParser_flValid (s : State) : (clearParser s).flValid = s.flValid := rfl
@[simp] theorem clearParser_flLen (s : State) : (clearParser s).flLen = s.flLen := rfl
@[simp] theorem clearParser_fl (s : State) : (clearParser s).fl = s.fl := rfl
@[simp] theorem clearParser_cmds (s : State) : (clearParser s).cmds = s.cmds := rfl
@[simp] theorem clearParser_resps (s : State) : (clearParser s).resps = s.resps := rfl

/-! ### `resetBlock` (R181) -/

@[simp] theorem resetBlock_params (s : State) : (resetBlock s).params = s.params := rfl
@[simp] theorem resetBlock_variant (s : State) : (resetBlock s).variant = s.variant := rfl
@[simp] theorem resetBlock_crc (s : State) : (resetBlock s).crc = s.params.crcInit := rfl
@[simp] theorem resetBlock_pst (s : State) : (resetBlock s).pst = .awaitFunc := rfl
@[simp] theorem resetBlock_pcnt (s : State) : (resetBlock s).pcnt = 0 := rfl
@[simp] theorem resetBlock_pbuf (s : State) : (resetBlock s).pbuf = s.pbuf := rfl
@[simp] theorem resetBlock_flValid (s : State) : (resetBlock s).flValid = false := rfl
@[simp] theorem resetBlock_flLen (s : State) : (resetBlock s).flLen = 0 := rfl
@[simp] theorem resetBlock_fl (s : State) : (resetBlock s).fl = s.fl := rfl
@[simp] theorem resetBlock_cmds (s : State) : (resetBlock s).cmds = s.cmds := rfl
@[simp] theorem resetBlock_resps (s : State) : (resetBlock s).resps = s.resps := rfl

/-! ### `setCrc` (R24) -/

@[simp] theorem setCrc_params (s : State) (v : Word) : (setCrc s v).params = s.params := rfl
@[simp] theorem setCrc_variant (s : State) (v : Word) : (setCrc s v).variant = s.variant := rfl
@[simp] theorem setCrc_crc (s : State) (v : Word) : (setCrc s v).crc = v := rfl
@[simp] theorem setCrc_pst (s : State) (v : Word) : (setCrc s v).pst = s.pst := rfl
@[simp] theorem setCrc_pcnt (s : State) (v : Word) : (setCrc s v).pcnt = s.pcnt := rfl
@[simp] theorem setCrc_pbuf (s : State) (v : Word) : (setCrc s v).pbuf = s.pbuf := rfl
@[simp] theorem setCrc_flValid (s : State) (v : Word) : (setCrc s v).flValid = s.flValid := rfl
@[simp] theorem setCrc_flLen (s : State) (v : Word) : (setCrc s v).flLen = s.flLen := rfl
@[simp] theorem setCrc_fl (s : State) (v : Word) : (setCrc s v).fl = s.fl := rfl
@[simp] theorem setCrc_cmds (s : State) (v : Word) : (setCrc s v).cmds = s.cmds := rfl
@[simp] theorem setCrc_resps (s : State) (v : Word) : (setCrc s v).resps = s.resps := rfl

/-! ### `advanceStage` (R150) -/

@[simp] theorem advanceStage_params (s : State) : (advanceStage s).params = s.params := rfl
@[simp] theorem advanceStage_variant (s : State) : (advanceStage s).variant = s.variant := rfl
@[simp] theorem advanceStage_crc (s : State) : (advanceStage s).crc = s.crc := rfl
@[simp] theorem advanceStage_pst (s : State) : (advanceStage s).pst = stage s.variant s.pcnt.toNat := rfl
@[simp] theorem advanceStage_pcnt (s : State) : (advanceStage s).pcnt = s.pcnt := rfl
@[simp] theorem advanceStage_pbuf (s : State) : (advanceStage s).pbuf = s.pbuf := rfl
@[simp] theorem advanceStage_flValid (s : State) : (advanceStage s).flValid = s.flValid := rfl
@[simp] theorem advanceStage_flLen (s : State) : (advanceStage s).flLen = s.flLen := rfl
@[simp] theorem advanceStage_fl (s : State) : (advanceStage s).fl = s.fl := rfl
@[simp] theorem advanceStage_cmds (s : State) : (advanceStage s).cmds = s.cmds := rfl
@[simp] theorem advanceStage_resps (s : State) : (advanceStage s).resps = s.resps := rfl

/-! ### `storeByte` (R142) -/

@[simp] theorem storeByte_params (s : State) (p : Nat) (b : Byte) : (storeByte s p b).params = s.params := rfl
@[simp] theorem storeByte_variant (s : State) (p : Nat) (b : Byte) : (storeByte s p b).variant = s.variant := rfl
@[simp] theorem storeByte_crc (s : State) (p : Nat) (b : Byte) : (storeByte s p b).crc = s.crc := rfl
@[simp] theorem storeByte_pst (s : State) (p : Nat) (b : Byte) : (storeByte s p b).pst = s.pst := rfl
@[simp] theorem storeByte_pcnt (s : State) (p : Nat) (b : Byte) : (storeByte s p b).pcnt = BitVec.ofNat 5 (p + 1) := rfl
@[simp] theorem storeByte_pbuf (s : State) (p : Nat) (b : Byte) : (storeByte s p b).pbuf = setByte s.pbuf p b := rfl
@[simp] theorem storeByte_flValid (s : State) (p : Nat) (b : Byte) : (storeByte s p b).flValid = s.flValid := rfl
@[simp] theorem storeByte_flLen (s : State) (p : Nat) (b : Byte) : (storeByte s p b).flLen = s.flLen := rfl
@[simp] theorem storeByte_fl (s : State) (p : Nat) (b : Byte) : (storeByte s p b).fl = s.fl := rfl
@[simp] theorem storeByte_cmds (s : State) (p : Nat) (b : Byte) : (storeByte s p b).cmds = s.cmds := rfl
@[simp] theorem storeByte_resps (s : State) (p : Nat) (b : Byte) : (storeByte s p b).resps = s.resps := rfl

/-! ### `retryByte` (R143) -/

@[simp] theorem retryByte_params (s : State) (b : Byte) : (retryByte s b).params = s.params := rfl
@[simp] theorem retryByte_variant (s : State) (b : Byte) : (retryByte s b).variant = s.variant := rfl
@[simp] theorem retryByte_crc (s : State) (b : Byte) : (retryByte s b).crc = s.crc := rfl
@[simp] theorem retryByte_pst (s : State) (b : Byte) : (retryByte s b).pst = .awaitFunc := rfl
@[simp] theorem retryByte_pcnt (s : State) (b : Byte) : (retryByte s b).pcnt = 1 := rfl
@[simp] theorem retryByte_pbuf (s : State) (b : Byte) : (retryByte s b).pbuf = setByte s.pbuf 0 b := rfl
@[simp] theorem retryByte_flValid (s : State) (b : Byte) : (retryByte s b).flValid = s.flValid := rfl
@[simp] theorem retryByte_flLen (s : State) (b : Byte) : (retryByte s b).flLen = s.flLen := rfl
@[simp] theorem retryByte_fl (s : State) (b : Byte) : (retryByte s b).fl = s.fl := rfl
@[simp] theorem retryByte_cmds (s : State) (b : Byte) : (retryByte s b).cmds = s.cmds := rfl
@[simp] theorem retryByte_resps (s : State) (b : Byte) : (retryByte s b).resps = s.resps := rfl

/-! ### `latchFrame` (R148) -/

@[simp] theorem latchFrame_params (s : State) : (latchFrame s).params = s.params := rfl
@[simp] theorem latchFrame_variant (s : State) : (latchFrame s).variant = s.variant := rfl
@[simp] theorem latchFrame_crc (s : State) : (latchFrame s).crc = s.crc := rfl
@[simp] theorem latchFrame_pst (s : State) : (latchFrame s).pst = .complete := rfl
@[simp] theorem latchFrame_pcnt (s : State) : (latchFrame s).pcnt = s.pcnt := rfl
@[simp] theorem latchFrame_pbuf (s : State) : (latchFrame s).pbuf = s.pbuf := rfl
@[simp] theorem latchFrame_flValid (s : State) : (latchFrame s).flValid = true := rfl
@[simp] theorem latchFrame_flLen (s : State) : (latchFrame s).flLen = s.pcnt := rfl
@[simp] theorem latchFrame_fl (s : State) : (latchFrame s).fl = copyFront s.pbuf s.fl s.pcnt.toNat := rfl
@[simp] theorem latchFrame_cmds (s : State) : (latchFrame s).cmds = s.cmds := rfl
@[simp] theorem latchFrame_resps (s : State) : (latchFrame s).resps = s.resps := rfl

/-! ### `respond` (R200) -/

@[simp] theorem respond_params (s : State) (r : Response) : (respond s r).params = s.params := rfl
@[simp] theorem respond_variant (s : State) (r : Response) : (respond s r).variant = s.variant := rfl
@[simp] theorem respond_crc (s : State) (r : Response) : (respond s r).crc = s.crc := rfl
@[simp] theorem respond_pst (s : State) (r : Response) : (respond s r).pst = s.pst := rfl
@[simp] theorem respond_pcnt (s : State) (r : Response) : (respond s r).pcnt = s.pcnt := rfl
@[simp] theorem respond_pbuf (s : State) (r : Response) : (respond s r).pbuf = s.pbuf := rfl
@[simp] theorem respond_flValid (s : State) (r : Response) : (respond s r).flValid = s.flValid := rfl
@[simp] theorem respond_flLen (s : State) (r : Response) : (respond s r).flLen = s.flLen := rfl
@[simp] theorem respond_fl (s : State) (r : Response) : (respond s r).fl = s.fl := rfl
@[simp] theorem respond_cmds (s : State) (r : Response) : (respond s r).cmds = s.cmds := rfl
@[simp] theorem respond_resps (s : State) (r : Response) : (respond s r).resps = s.resps ++ [{ r with stat := statWord s }] := rfl

/-! ### `placeCommand` -/

@[simp] theorem placeCommand_params (c : CmdWord) (s : State) : (placeCommand c s).params = s.params := rfl
@[simp] theorem placeCommand_variant (c : CmdWord) (s : State) : (placeCommand c s).variant = s.variant := rfl
@[simp] theorem placeCommand_crc (c : CmdWord) (s : State) : (placeCommand c s).crc = s.crc := rfl
@[simp] theorem placeCommand_pst (c : CmdWord) (s : State) : (placeCommand c s).pst = s.pst := rfl
@[simp] theorem placeCommand_pcnt (c : CmdWord) (s : State) : (placeCommand c s).pcnt = s.pcnt := rfl
@[simp] theorem placeCommand_pbuf (c : CmdWord) (s : State) : (placeCommand c s).pbuf = s.pbuf := rfl
@[simp] theorem placeCommand_flValid (c : CmdWord) (s : State) : (placeCommand c s).flValid = s.flValid := rfl
@[simp] theorem placeCommand_flLen (c : CmdWord) (s : State) : (placeCommand c s).flLen = s.flLen := rfl
@[simp] theorem placeCommand_fl (c : CmdWord) (s : State) : (placeCommand c s).fl = s.fl := rfl
@[simp] theorem placeCommand_cmds (c : CmdWord) (s : State) : (placeCommand c s).cmds = c :: s.cmds := rfl
@[simp] theorem placeCommand_resps (c : CmdWord) (s : State) : (placeCommand c s).resps = s.resps := rfl

/-! ### `blockOf` -/

@[simp] theorem blockOf_params (s : State) : (blockOf s).params = s.params := rfl
@[simp] theorem blockOf_variant (s : State) : (blockOf s).variant = s.variant := rfl
@[simp] theorem blockOf_crc (s : State) : (blockOf s).crc = s.crc := rfl
@[simp] theorem blockOf_pst (s : State) : (blockOf s).pst = s.pst := rfl
@[simp] theorem blockOf_pcnt (s : State) : (blockOf s).pcnt = s.pcnt := rfl
@[simp] theorem blockOf_pbuf (s : State) : (blockOf s).pbuf = s.pbuf := rfl
@[simp] theorem blockOf_flValid (s : State) : (blockOf s).flValid = s.flValid := rfl
@[simp] theorem blockOf_flLen (s : State) : (blockOf s).flLen = s.flLen := rfl
@[simp] theorem blockOf_fl (s : State) : (blockOf s).fl = s.fl := rfl
@[simp] theorem blockOf_cmds (s : State) : (blockOf s).cmds = [] := rfl
@[simp] theorem blockOf_resps (s : State) : (blockOf s).resps = [] := rfl

/-! ### `observable` -/

@[simp] theorem observable_params (s : State) : (observable s).params = s.params := by
  unfold observable; rfl
@[simp] theorem observable_variant (s : State) : (observable s).variant = s.variant := by
  unfold observable; rfl
@[simp] theorem observable_crc (s : State) : (observable s).crc = s.crc := by
  unfold observable; rfl
@[simp] theorem observable_pst (s : State) : (observable s).pst = s.pst := by
  unfold observable; rfl
@[simp] theorem observable_pcnt (s : State) : (observable s).pcnt = s.pcnt := by
  unfold observable; rfl
@[simp] theorem observable_pbuf (s : State) : (observable s).pbuf = frontBytes s.pbuf s.pcnt.toNat := by
  unfold observable; rfl
@[simp] theorem observable_flValid (s : State) : (observable s).flValid = s.flValid := by
  unfold observable; rfl
@[simp] theorem observable_flLen (s : State) : (observable s).flLen = s.flLen := by
  unfold observable; rfl
@[simp] theorem observable_fl (s : State) : (observable s).fl = if s.flValid then frontBytes s.fl s.flLen.toNat else Buf.zero := by
  unfold observable; rfl
@[simp] theorem observable_cmds (s : State) : (observable s).cmds = s.cmds := by
  unfold observable; rfl
@[simp] theorem observable_resps (s : State) : (observable s).resps = s.resps := by
  unfold observable; rfl

/-! ### `State.powerOn` (R220) -/

@[simp] theorem powerOn_params (ps : Params) (v : Variant) : (State.powerOn ps v).params = ps := rfl
@[simp] theorem powerOn_variant (ps : Params) (v : Variant) : (State.powerOn ps v).variant = v := rfl
@[simp] theorem powerOn_crc (ps : Params) (v : Variant) : (State.powerOn ps v).crc = ps.crcInit := rfl
@[simp] theorem powerOn_pst (ps : Params) (v : Variant) : (State.powerOn ps v).pst = .awaitFunc := rfl
@[simp] theorem powerOn_pcnt (ps : Params) (v : Variant) : (State.powerOn ps v).pcnt = 0 := rfl
@[simp] theorem powerOn_pbuf (ps : Params) (v : Variant) : (State.powerOn ps v).pbuf = Buf.zero := rfl
@[simp] theorem powerOn_flValid (ps : Params) (v : Variant) : (State.powerOn ps v).flValid = false := rfl
@[simp] theorem powerOn_flLen (ps : Params) (v : Variant) : (State.powerOn ps v).flLen = 0 := rfl
@[simp] theorem powerOn_fl (ps : Params) (v : Variant) : (State.powerOn ps v).fl = Buf.zero := rfl
@[simp] theorem powerOn_cmds (ps : Params) (v : Variant) : (State.powerOn ps v).cmds = [] := rfl
@[simp] theorem powerOn_resps (ps : Params) (v : Variant) : (State.powerOn ps v).resps = [] := rfl

/-- The build of R6 fits the sizes of the block (R7). -/
theorem standard_fits : Params.standard.Fits := ⟨by decide, by decide, by decide⟩

/-! ### `STAT` depends on the block alone (R32) -/

@[simp] theorem statWord_respond (s : State) (r : Response) : statWord (respond s r) = statWord s := rfl

@[simp] theorem blockOf_respond (s : State) (r : Response) : blockOf (respond s r) = blockOf s := rfl

@[simp] theorem statWord_blockOf (s : State) : statWord (blockOf s) = statWord s := rfl

theorem statWord_congr {s t : State} (h : blockOf s = blockOf t) : statWord s = statWord t := by
  rw [← statWord_blockOf s, h, statWord_blockOf]

end Sys2Proof.Machine
end

