-- ==== Sys2Proof/Laws/Ops.lean ====
section
/-! SUPPORT. What each shared operation of the machine can do, said once: taking a command, answering, the restart, and
the two stages of PUSH. -/
namespace Sys2Proof.Machine

/-! ### Taking a command -/

@[simp] theorem takeCommand_nil {s : State} (h : s.cmds = []) : takeCommand s = none := by
  simp [takeCommand, h]

@[simp] theorem takeCommand_cons {s : State} {c : CmdWord} {rest : List CmdWord} (h : s.cmds = c :: rest) :
    takeCommand s = some (c, { s with cmds := rest }) := by
  simp [takeCommand, h]

@[simp] theorem takeCommand_place (c : CmdWord) (s : State) : takeCommand (placeCommand c s) = some (c, s) := rfl

/-- A step runs the command its word decodes to, in the state without that word. -/
theorem step_decoded {s : State} {c : CmdWord} {rest : List CmdWord} {i : Instr} (h : s.cmds = c :: rest)
    (hd : decode c = .ok i) : step s = exec i { s with cmds := rest } := by
  simp [step, takeCommand_cons h, hd]

/-- A step answers `NOT_SUPPORTED` to a word that spells no command. -/
theorem step_rejected {s : State} {c : CmdWord} {rest : List CmdWord} {r : Reject} (h : s.cmds = c :: rest)
    (hd : decode c = .error r) : step s = answerNotSupported { s with cmds := rest } := by
  simp [step, takeCommand_cons h, hd]

theorem step_idle {s : State} (h : s.cmds = []) : step s = .next s := by
  simp [step, takeCommand_nil h, idle]

/-! ### Answering -/

@[simp] theorem answer_eq_next {s t : State} {r : Response} : answer s r = .next t ↔ respond s r = t := by
  simp [answer]

@[simp] theorem answer_ne_fault {s : State} {r : Response} {f : Fault} : answer s r ≠ .fault f := by
  simp [answer]

/-- Every answer gives exactly one response and changes nothing else. -/
theorem answer_responded (s : State) (r : Response) :
    ∃ t, answer s r = .next t ∧ blockOf t = blockOf s ∧ Responded s t r :=
  ⟨respond s r, rfl, rfl, rfl, rfl⟩

/-! ### The restart (R141) -/

theorem restart_complete {s : State} (h : s.pst = .complete) : restart s = clearParser s := if_pos h

theorem restart_building {s : State} (h : s.pst ≠ .complete) : restart s = s := if_neg h

/-- After the restart no frame is complete. -/
theorem restart_pst_ne (s : State) : (restart s).pst ≠ .complete := by
  by_cases h : s.pst = .complete
  · simp [restart_complete h]
  · rwa [restart_building h]

@[simp] theorem restart_params (s : State) : (restart s).params = s.params := by unfold restart; split <;> rfl
@[simp] theorem restart_variant (s : State) : (restart s).variant = s.variant := by unfold restart; split <;> rfl
@[simp] theorem restart_crc (s : State) : (restart s).crc = s.crc := by unfold restart; split <;> rfl
@[simp] theorem restart_pbuf (s : State) : (restart s).pbuf = s.pbuf := by unfold restart; split <;> rfl
@[simp] theorem restart_flValid (s : State) : (restart s).flValid = s.flValid := by unfold restart; split <;> rfl
@[simp] theorem restart_flLen (s : State) : (restart s).flLen = s.flLen := by unfold restart; split <;> rfl
@[simp] theorem restart_fl (s : State) : (restart s).fl = s.fl := by unfold restart; split <;> rfl
@[simp] theorem restart_cmds (s : State) : (restart s).cmds = s.cmds := by unfold restart; split <;> rfl
@[simp] theorem restart_resps (s : State) : (restart s).resps = s.resps := by unfold restart; split <;> rfl

/-! ### PUSH (R140) -/

theorem pushByte_checked {s : State} {b : Byte} {k : Check} (hp : s.pcnt.toNat < 25)
    (hk : check s.params s.variant (setByte s.pbuf s.pcnt.toNat b) s.pcnt.toNat b = some k) :
    pushByte b s = pushResult (storeByte s s.pcnt.toNat b) b k := by
  simp [pushByte, hp, hk]

/-- Everything a PUSH past its restart can do when it answers a next state. -/
theorem pushByte_next {s t : State} {b : Byte} (h : pushByte b s = .next t) :
    s.pcnt.toNat < 25 ∧ ∃ k, check s.params s.variant (setByte s.pbuf s.pcnt.toNat b) s.pcnt.toNat b = some k ∧
      pushResult (storeByte s s.pcnt.toNat b) b k = .next t := by
  unfold pushByte at h
  split at h
  · rename_i hp
    split at h
    · rename_i k hk
      exact ⟨hp, k, hk, h⟩
    · cases h
  · cases h

/-- The three results of a checked byte. -/
theorem pushResult_next {s t : State} {b : Byte} {k : Check} (h : pushResult s b k = .next t) :
    (k = .fail ∧ t = respond (retryByte s b) { blankResponse .framingError with feState := parseCode s.pst }) ∨
    (k = .done ∧ t = respond (latchFrame s) { blankResponse .complete with
        frameLen := s.pcnt
        frame := frontBytes (copyFront s.pbuf s.fl s.pcnt.toNat) s.pcnt.toNat
        fields := frameFields s.params s.variant (copyFront s.pbuf s.fl s.pcnt.toNat) }) ∨
    (k = .pass ∧ t = respond (advanceStage s) (blankResponse .needMore)) := by
  cases k <;> simp [pushResult, answerLatched] at h <;> simp [← h]

/-- `PCNT` after a store, when the position is inside the buffer. -/
theorem storeByte_pcnt_toNat (s : State) (p : Nat) (b : Byte) (h : p < 25) :
    (storeByte s p b).pcnt.toNat = p + 1 := by
  simp; omega

end Sys2Proof.Machine
end

