-- ==== Sys2Proof/Laws/Parser.lean ====
section
/-! SUPPORT. The check at each position of a frame, what PUSH does with each result of it, and which bytes of the buffer
a check reads. -/
namespace Sys2Proof.Machine

/-! ### `stage` (R150) -/

/-- No accepted byte enters `COMPLETE`: only a finished frame does (R148, R150). -/
theorem stage_ne_complete (v : Variant) (n : Nat) : stage v n ≠ .complete := by
  unfold stage
  split <;> (repeat' split) <;> simp

theorem stage_async_len {n : Nat} (h : 3 ≤ n) (h' : n ≤ 12) : stage .async n = .awaitLen := by
  simp only [stage]
  rw [if_neg (by omega), if_neg (by omega), if_pos h']

theorem stage_async_trailer {n : Nat} (h : 13 ≤ n) : stage .async n = .awaitTrailer := by
  simp only [stage]
  rw [if_neg (by omega), if_neg (by omega), if_neg (by omega)]

theorem stage_sync_type {n : Nat} (h : 2 ≤ n) (h' : n ≤ 3) : stage .sync n = .awaitType := by
  simp only [stage]
  rw [if_neg (by omega), if_pos h']

theorem stage_sync_len {n : Nat} (h : 4 ≤ n) (h' : n ≤ 11) : stage .sync n = .awaitLen := by
  simp only [stage]
  rw [if_neg (by omega), if_neg (by omega), if_pos h']

theorem stage_sync_trailer {n : Nat} (h : 12 ≤ n) : stage .sync n = .awaitTrailer := by
  simp only [stage]
  rw [if_neg (by omega), if_neg (by omega), if_neg (by omega)]

/-! ### The checks, position by position (R144, R145, R146, R149) -/

@[simp] theorem check_zero (ps : Params) (v : Variant) (buf : Buf) (b : Byte) : check ps v buf 0 b = some .pass := by
  cases v <;> rfl

@[simp] theorem check_async_func (ps : Params) (buf : Buf) (b : Byte) :
    check ps .async buf 1 b = some (requireByte b ps.func) := rfl

@[simp] theorem check_async_type (ps : Params) (buf : Buf) (b : Byte) :
    check ps .async buf 2 b = some (requireByte b ps.typeCode) := rfl

theorem check_async_header {p : Nat} (ps : Params) (buf : Buf) (b : Byte) (h3 : 3 ≤ p) (h11 : p ≤ 11) :
    check ps .async buf p b = some .pass := by
  simp [check, checkAsync, show p ≠ 0 by omega, show p ≠ 1 by omega, show p ≠ 2 by omega, show p < 12 by omega]

@[simp] theorem check_async_length (ps : Params) (buf : Buf) (b : Byte) :
    check ps .async buf 12 b = some (if declaredLen buf ≤ ps.maxPayload then .pass else .fail) := rfl

theorem check_async_tail {p : Nat} (ps : Params) (buf : Buf) (b : Byte) (h : 13 ≤ p) :
    check ps .async buf p b = checkTrailer ps (declaredLen buf) p b := by
  simp [check, checkAsync, show p ≠ 0 by omega, show p ≠ 1 by omega, show p ≠ 2 by omega, show ¬p < 12 by omega,
    show p ≠ 12 by omega]

theorem checkTrailer_payload {n p : Nat} (ps : Params) (b : Byte) (h : p < 13 + n) :
    checkTrailer ps n p b = some .pass :=
  if_pos h

theorem checkTrailer_bad {ps : Params} {n p : Nat} {b : Byte} (h : 13 + n ≤ p) (h' : p < 13 + n + ps.syncLen)
    (hb : b ≠ ps.syncByte) : checkTrailer ps n p b = some .fail := by
  unfold checkTrailer
  rw [if_neg (by unfold Config.headerLen; omega), if_pos (by unfold Config.headerLen; omega), if_pos hb]

theorem checkTrailer_good {ps : Params} {n p : Nat} (h : 13 + n ≤ p) (h' : p + 1 < 13 + n + ps.syncLen) :
    checkTrailer ps n p ps.syncByte = some .pass := by
  unfold checkTrailer
  rw [if_neg (by unfold Config.headerLen; omega), if_pos (by unfold Config.headerLen; omega),
    if_neg (not_not_intro rfl), if_neg (by unfold Config.headerLen; omega)]

theorem checkTrailer_last {ps : Params} {n p : Nat} (h : 13 + n ≤ p) (h' : p + 1 = 13 + n + ps.syncLen) :
    checkTrailer ps n p ps.syncByte = some .done := by
  unfold checkTrailer
  rw [if_neg (by unfold Config.headerLen; omega), if_pos (by unfold Config.headerLen; omega),
    if_neg (not_not_intro rfl), if_pos (by unfold Config.headerLen; omega)]

theorem check_sync_early {p : Nat} (ps : Params) (buf : Buf) (b : Byte) (h : p < 13) :
    check ps .sync buf p b = some .pass :=
  if_pos h

@[simp] theorem check_sync_last (ps : Params) (buf : Buf) (b : Byte) : check ps .sync buf 13 b =
    some (if crc16 ps (checkedWords buf) = wordAt buf 6 then .done else .fail) := rfl

theorem check_sync_past {p : Nat} (ps : Params) (buf : Buf) (b : Byte) (h : 13 < p) : check ps .sync buf p b = none := by
  simp [check, checkSync, show ¬p < 13 by omega, show p ≠ 13 by omega]

@[simp] theorem requireByte_self (b : Byte) : requireByte b b = .pass := if_pos rfl

theorem requireByte_ne {b want : Byte} (h : b ≠ want) : requireByte b want = .fail := if_neg h

/-! ### What the checks read -/

theorem wordAt_congr {a b : Buf} {i : Nat} (h0 : byteAt a (2 * i) = byteAt b (2 * i))
    (h1 : byteAt a (2 * i + 1) = byteAt b (2 * i + 1)) : wordAt a i = wordAt b i := by
  rw [wordAt, wordAt, h0, h1]

theorem declaredLen_congr {a b : Buf} (h11 : byteAt a 11 = byteAt b 11) (h12 : byteAt a 12 = byteAt b 12) :
    declaredLen a = declaredLen b := by
  rw [declaredLen, declaredLen, h11, h12]

theorem declaredLen_eq (buf : Buf) : declaredLen buf = 256 * (byteAt buf 11).toNat + (byteAt buf 12).toNat :=
  toNat_wordOf _ _

theorem checkedWords_congr {a b : Buf} (h : ∀ i, i < 12 → byteAt a i = byteAt b i) :
    checkedWords a = checkedWords b := by
  simp only [checkedWords, wordAt, Nat.reduceMul, Nat.reduceAdd, h 0 (by omega), h 1 (by omega), h 2 (by omega),
    h 3 (by omega), h 4 (by omega), h 5 (by omega), h 6 (by omega), h 7 (by omega), h 8 (by omega), h 9 (by omega),
    h 10 (by omega), h 11 (by omega)]

/-- The check of the byte at `p` reads no byte of the buffer past `p` (R142). -/
theorem check_congr {ps : Params} {v : Variant} {x y : Buf} {p : Nat} {b : Byte} (h : ∀ i, i ≤ p → byteAt x i = byteAt y i) :
    check ps v x p b = check ps v y p b := by
  cases v with
  | sync =>
    rcases Nat.lt_trichotomy p 13 with hp | rfl | hp
    · rw [check_sync_early _ _ _ hp, check_sync_early _ _ _ hp]
    · rw [check_sync_last, check_sync_last, checkedWords_congr (fun i hi => h i (by omega)),
        wordAt_congr (h 12 (by omega)) (h 13 (by omega))]
    · rw [check_sync_past _ _ _ hp, check_sync_past _ _ _ hp]
  | async =>
    rcases Nat.lt_or_ge p 12 with hp | hp
    · simp [check, checkAsync, hp]
    · rw [check, check, checkAsync, checkAsync, declaredLen_congr (h 11 (by omega)) (h 12 hp)]

theorem declaredLen_setByte {p : Nat} (buf : Buf) (b : Byte) (h11 : p ≠ 11) (h12 : p ≠ 12) :
    declaredLen (setByte buf p b) = declaredLen buf :=
  declaredLen_congr (byteAt_setByte_ne _ _ _ _ (Ne.symm h11)) (byteAt_setByte_ne _ _ _ _ (Ne.symm h12))

/-! ### PUSH on each result of the check (R140) -/

/-- Building a frame, `PUSH` needs no restart. -/
theorem execPush_building {s : State} {b : Byte} {k : Check} (hs : s.pst ≠ .complete) (hp : s.pcnt.toNat < 25)
    (hk : check s.params s.variant (setByte s.pbuf s.pcnt.toNat b) s.pcnt.toNat b = some k) :
    execPush b s = pushResult (storeByte s s.pcnt.toNat b) b k := by
  rw [execPush, restart_building hs, pushByte_checked hp hk]

/-- In `COMPLETE` the byte is byte 0 of a new frame, which has no check (R141). -/
theorem execPush_complete {s : State} (b : Byte) (hs : s.pst = .complete) :
    execPush b s = pushResult (storeByte (clearParser s) 0 b) b .pass := by
  rw [execPush, restart_complete hs, pushByte_checked (k := .pass) (by simp) (by simp)]
  rfl

theorem pushAccepts_of_pass {s : State} {b : Byte} {st : ParseState} (hs : s.pst ≠ .complete)
    (hp : s.pcnt.toNat < 25)
    (hk : check s.params s.variant (setByte s.pbuf s.pcnt.toNat b) s.pcnt.toNat b = some .pass)
    (hst : stage s.variant (s.pcnt.toNat + 1) = st) : PushAccepts s b st := by
  subst hst
  refine ⟨_, (execPush_building hs hp hk).trans rfl, ?_, rfl, rfl⟩
  rw [blockOf_respond, advanceStage, storeByte_pcnt_toNat _ _ _ hp]
  rfl

theorem pushFails_of_fail {s : State} {b : Byte} (hs : s.pst ≠ .complete) (hp : s.pcnt.toNat < 25)
    (hk : check s.params s.variant (setByte s.pbuf s.pcnt.toNat b) s.pcnt.toNat b = some .fail) :
    PushFails s b (parseCode s.pst) :=
  ⟨_, (execPush_building hs hp hk).trans rfl, rfl, rfl, rfl⟩

theorem pushCompletes_of_done {s : State} {b : Byte} (hs : s.pst ≠ .complete) (hp : s.pcnt.toNat < 25)
    (hk : check s.params s.variant (setByte s.pbuf s.pcnt.toNat b) s.pcnt.toNat b = some .done) : PushCompletes s b := by
  refine ⟨_, (execPush_building hs hp hk).trans rfl, rfl, rfl, rfl, rfl, rfl, rfl, rfl, rfl, ?_,
    { blankResponse .complete with
      frame := frontBytes (copyFront (storeByte s s.pcnt.toNat b).pbuf s.fl (storeByte s s.pcnt.toNat b).pcnt.toNat)
        (storeByte s s.pcnt.toNat b).pcnt.toNat }, ⟨rfl, rfl⟩, ?_⟩
  · intro i hi
    exact (byteAt_copyFront _ _ _ _).trans (if_pos hi)
  · intro i
    exact byteAt_frontBytes _ _ _

end Sys2Proof.Machine
end

