-- ==== Sys2Proof/Laws/PerInstr.lean ====
section
/-! SUPPORT. Statements about every command as syntax, one lemma for each constructor. -/
namespace Sys2Proof.Laws.EncodesInRow

/-- The word of the command matches the row of the opcode table that the command belongs to (R72, R74). -/
def Statement (i : Instr) : Prop := ∃ r ∈ opRows, r.mnemonic = i.mnemonic ∧ r.hits (encode i) = true

/-- A word put together from fields meets a mask and a value put together from fields. -/
theorem hits_of_fields {data data' : BitVec 64} {pend pend' : BitVec 1} {cmd cmd' : BitVec 3} {sub sub' : BitVec 4}
    {addr addr' : BitVec 24} {w w' : Word} {b b' : Byte} {len len' op op' : BitVec 4} {n : String} {value : CmdWord}
    (h : cmdWordOf (data &&& data') (pend &&& pend') (cmd &&& cmd') (sub &&& sub') (addr &&& addr') (w &&& w')
      (b &&& b') (len &&& len') (op &&& op') = value) :
    OpRow.hits ⟨n, value, cmdWordOf data' pend' cmd' sub' addr' w' b' len' op'⟩
      (cmdWordOf data pend cmd sub addr w b len op) = true := by
  rw [OpRow.hits, beq_iff_eq, cmdWordOf_and, h]

theorem nop : Statement .nop := ⟨_, .head _, rfl, by decide⟩

theorem reset : Statement .reset := ⟨_, .tail _ (.head _), rfl, by decide⟩

theorem push (b : Byte) : Statement (.push b) := by
  refine ⟨_, .tail _ (.tail _ (.head _)), rfl, ?_⟩
  have h : (0xFFFFFFFFFFFFFFFFFFFFFFFFFFFF00FF : CmdWord) =
      cmdWordOf (BitVec.allOnes 64) 1 7 0xF 0xFFFFFF 0xFFFF 0 0xF 0xF := by decide
  rw [h]
  exact hits_of_fields (by simp; decide)

theorem parserClear : Statement .parserClear := ⟨_, .tail _ (.tail _ (.tail _ (.head _))), rfl, by decide⟩

theorem frameRead : Statement .frameRead := ⟨_, .tail _ (.tail _ (.tail _ (.tail _ (.head _)))), rfl, by decide⟩

theorem crcClear : Statement .crcClear :=
  ⟨_, .tail _ (.tail _ (.tail _ (.tail _ (.tail _ (.head _))))), rfl, by decide⟩

theorem crcByte (b : Byte) : Statement (.crcByte b) := by
  refine ⟨_, .tail _ (.tail _ (.tail _ (.tail _ (.tail _ (.tail _ (.head _)))))), rfl, ?_⟩
  have h : (0xFFFFFFFFFFFFFFFFFFFFFFFFFFFF00FF : CmdWord) =
      cmdWordOf (BitVec.allOnes 64) 1 7 0xF 0xFFFFFF 0xFFFF 0 0xF 0xF := by decide
  rw [h]
  exact hits_of_fields (by simp; decide)

theorem crcWord (w : Word) : Statement (.crcWord w) := by
  refine ⟨_, .tail _ (.tail _ (.tail _ (.tail _ (.tail _ (.tail _ (.tail _ (.head _))))))), rfl, ?_⟩
  have h : (0xFFFFFFFFFFFFFFFFFFFFFFFF0000FFFF : CmdWord) =
      cmdWordOf (BitVec.allOnes 64) 1 7 0xF 0xFFFFFF 0 0xFF 0xF 0xF := by decide
  rw [h]
  exact hits_of_fields (by simp; decide)

theorem encA (len : BitVec 4) (b : Byte) (addr : BitVec 24) (data : BitVec 64) : Statement (.encA len b addr data) := by
  refine ⟨⟨"ENC_A", 8, 0x0000000000000000FF000000FFFF000F⟩, by decide, rfl, ?_⟩
  have h : (0x0000000000000000FF000000FFFF000F : CmdWord) = cmdWordOf 0 1 7 0xF 0 0xFFFF 0 0 0xF := by decide
  rw [h]
  exact hits_of_fields (by simp; decide)

theorem encS (len : BitVec 4) (b : Byte) (addr : BitVec 24) (sub : BitVec 4) (cmd : BitVec 3) (pend : BitVec 1)
    (data : BitVec 64) : Statement (.encS len b addr sub cmd pend data) := by
  refine ⟨⟨"ENC_S", 9, 0x000000000000000000000000FFFF000F⟩, by decide, rfl, ?_⟩
  have h : (0x000000000000000000000000FFFF000F : CmdWord) = cmdWordOf 0 0 0 0 0 0xFFFF 0 0 0xF := by decide
  rw [h]
  exact hits_of_fields (by simp; decide)

/-- A mask inside the opcode field sees the opcode alone. -/
theorem and_low_mask (c : CmdWord) (m : BitVec 4) : c &&& m.setWidth 128 = (opField c &&& m).setWidth 128 := by
  conv_lhs => rw [← cmdWordOf_fields c, setWidth_op, cmdWordOf_and]
  rw [setWidth_op]
  simp

theorem reservedAB (low : BitVec 1) (rest : BitVec 124) : Statement (.reservedAB low rest) := by
  refine ⟨⟨"RESERVED_A_B", 0xA, 0xE⟩, by decide, rfl, ?_⟩
  have ho : opField (encode (.reservedAB low rest)) = BitVec.ofNat 4 (10 + low.toNat) := by
    apply BitVec.eq_of_toNat_eq
    have := low.isLt
    rw [opField, BitVec.extractLsb'_toNat, toNat_encode_reservedAB, BitVec.toNat_ofNat, Nat.shiftRight_eq_div_pow]
    omega
  rw [OpRow.hits, beq_iff_eq]
  refine (and_low_mask _ 0xE).trans ?_
  rw [ho]
  clear ho
  revert low
  decide

theorem reservedCF (low : BitVec 2) (rest : BitVec 124) : Statement (.reservedCF low rest) := by
  refine ⟨⟨"RESERVED_C_F", 0xC, 0xC⟩, by decide, rfl, ?_⟩
  have ho : opField (encode (.reservedCF low rest)) = BitVec.ofNat 4 (12 + low.toNat) := by
    apply BitVec.eq_of_toNat_eq
    have := low.isLt
    rw [opField, BitVec.extractLsb'_toNat, toNat_encode_reservedCF, BitVec.toNat_ofNat, Nat.shiftRight_eq_div_pow]
    omega
  rw [OpRow.hits, beq_iff_eq]
  refine (and_low_mask _ 0xC).trans ?_
  rw [ho]
  clear ho
  revert low
  decide

end Sys2Proof.Laws.EncodesInRow
end

