-- ==== Sys2Proof/Tests/Slice0.lean ====
section
/-! SUPPORT. Tests. Expected values are those of spec/95_test_vectors.md (the vector is named in each docstring) or are
read off the rule named. After the tests come the witnesses: for each obligation with hypotheses, one theorem that
meets all of them at a concrete state and operands. -/
namespace Sys2Proof.Tests
open Sys2Proof.Machine

-- One theorem after another: each `decide +kernel` would otherwise hold a thread while it waits for those before it.
set_option Elab.async false

/-! ## Helpers -/

/-- The state an outcome leads to. -/
def after : Host.Outcome State Fault Refusal → State
  | .next t => t
  | .fault _ => State.reset
  | .refused _ => State.reset

/-- Whether an outcome is a next state. -/
def answers : Host.Outcome State Fault Refusal → Bool
  | .next _ => true
  | .fault _ => false
  | .refused _ => false

theorem next_after {o : Host.Outcome State Fault Refusal} (h : answers o = true) : o = .next (after o) := by
  cases o with
  | next t => rfl
  | fault f => cases h
  | refused r => cases h

/-- The last response given. -/
def lastResponse (s : State) : Response := s.resps.getLast?.getD (blankResponse .ok)

/-- One step on the command word `c`, from `s`. -/
def issue (c : CmdWord) (s : State) : State := after (step (placeCommand c s))

/-- Status, `fe_state` and `STAT` of the last response. -/
def seen (s : State) : Status × BitVec 3 × BitVec 16 :=
  ((lastResponse s).status, (lastResponse s).feState, (lastResponse s).stat)

/-- An outcome that gives exactly one more response, of status `st`. -/
theorem one_response {o : Host.Outcome State Fault Refusal} {s : State} {st : Status}
    (h : answers o = true ∧ (after o).resps = s.resps ++ [lastResponse (after o)] ∧
      (lastResponse (after o)).status = st) :
    ∃ (t : State) (r : Response), o = .next t ∧ t.resps = s.resps ++ [r] ∧ r.status = st :=
  ⟨_, _, next_after h.1, h.2⟩

/-- The first `out_len` bytes of the last response. -/
def emitted (s : State) : List Byte := (lastResponse s).out.toList.take (lastResponse s).outLen.toNat

/-- An instance that holds the bytes `bs` of an unfinished frame. -/
def building (v : Variant) (bs : List Byte) : State :=
  { State.powerOn Params.standard v with pst := stage v bs.length, pcnt := BitVec.ofNat 5 bs.length, pbuf := bufOf bs }

/-- An instance that has just completed the frame `bs`. -/
def completed (v : Variant) (bs : List Byte) : State :=
  { State.powerOn Params.standard v with
    pst := .complete
    pcnt := BitVec.ofNat 5 bs.length
    pbuf := bufOf bs
    flValid := true
    flLen := BitVec.ofNat 5 bs.length
    fl := bufOf bs }

/-- The async frame of V-E1. -/
def frameE1 : List Byte := [0x01, 0x2B, 0x0D, 0x00, 0x00, 0x01, 0x01, 0x60, 0x00, 0x00, 0x00, 0x00, 0x00, 0x55, 0x55, 0x55, 0x55]

/-- The async frame of V-E2. -/
def frameE2 : List Byte :=
  [0x01, 0x2B, 0x0D, 0x00, 0x00, 0x01, 0x01, 0x60, 0x00, 0x00, 0x00, 0x00, 0x02, 0x34, 0x12, 0x55, 0x55, 0x55, 0x55]

/-- The async frame of V-E3, the longest. -/
def frameE3 : List Byte :=
  [0x20, 0x2B, 0x0D, 0x00, 0x00, 0x20, 0x20, 0x10, 0x03, 0x00, 0x00, 0x00, 0x08, 0x01, 0x02, 0x03, 0x04, 0x05, 0x06, 0x07,
    0x08, 0x55, 0x55, 0x55, 0x55]

/-- The sync frame of V-S1. -/
def frameS1 : List Byte := [0x00, 0x10, 0x01, 0x12, 0x00, 0x00, 0x00, 0x00, 0x00, 0x00, 0x00, 0x00, 0xAF, 0xE1]

/-! ## Well-formed commands (R76, R74): one ill-formed command for each check -/

theorem test_wellFormed_accepts : (Instr.encS 8 0x0A 0xFFF 3 3 1 0x0807060504030201).wellFormed Params.standard = true := by decide

/-- V-X1: `LEN` above 8. -/
theorem test_wellFormed_len : (Instr.encA 9 0x01 0x000160 0).wellFormed Params.standard = false := by decide

/-- V-X2: a nonzero byte after `LEN`. -/
theorem test_wellFormed_data : (Instr.encA 1 0x01 0x000160 0x0201).wellFormed Params.standard = false := by decide

/-- V-X4: a sync address of 13 bits. -/
theorem test_wellFormed_addr : (Instr.encS 0 0x01 0x001000 0 1 0 0).wellFormed Params.standard = false := by decide

/-- V-X3: the command code 7. -/
theorem test_wellFormed_cmd : (Instr.encS 0 0x01 0x000011 0 7 0 0).wellFormed Params.standard = false := by decide

/-- R74: reserved opcodes. -/
theorem test_wellFormed_reserved :
    (Instr.reservedAB 0 0).wellFormed Params.standard = false ∧ (Instr.reservedCF 0 0).wellFormed Params.standard = false := by decide

/-! ## Decoding: words written out in spec/95_test_vectors.md, and their encoding back -/

/-- V-K1, V-K2, V-K5, V-K6 and P1: the commands without operands. -/
theorem test_decode_plain :
    decode 0x00000000000000000000000000000000 = .ok .nop ∧
    decode 0x00000000000000000000000000000001 = .ok .reset ∧
    decode 0x00000000000000000000000000000003 = .ok .parserClear ∧
    decode 0x00000000000000000000000000000004 = .ok .frameRead ∧
    decode 0x00000000000000000000000000000005 = .ok .crcClear := by decide

/-- P1 and P2: `PUSH`, `CRC_BYTE`, `CRC_WORD`. -/
theorem test_decode_byte_word :
    decode 0x0000000000000000000000000000E102 = .ok (.push 0xE1) ∧
    decode 0x0000000000000000000000000000AF06 = .ok (.crcByte 0xAF) ∧
    decode 0x00000000000000000000000001120007 = .ok (.crcWord 0x0112) := by decide

/-- V-E3 and V-S3. -/
theorem test_decode_encoder :
    decode 0x08070605040302010003201000002088 = .ok (.encA 8 0x20 0x032010 0x0807060504030201) ∧
    decode 0x0807060504030201B3000FFF00000A89 = .ok (.encS 8 0x0A 0xFFF 3 3 1 0x0807060504030201) := by decide

/-- V-K3: every reserved opcode. -/
theorem test_decode_reserved :
    decode 0xA = .ok (.reservedAB 0 0) ∧ decode 0xB = .ok (.reservedAB 1 0) ∧ decode 0xC = .ok (.reservedCF 0 0) ∧
    decode 0xD = .ok (.reservedCF 1 0) ∧ decode 0xE = .ok (.reservedCF 2 0) ∧
    decode 0xFFFFFFFFFFFFFFFFFFFFFFFFFFFFFFFF = .ok (.reservedCF 3 0xFFFFFFFFFFFFFFFFFFFFFFFFFFFFFFF) := by decide

/-- V-K4, V-K8, V-X5, V-X6, V-X7: a 1 in a fixed bit. -/
theorem test_decode_fixed_bits :
    decode 0x80000000000000000000000000000000 = .error (.fixedBits 0) ∧
    decode 0x00000000000000000000000000015502 = .error (.fixedBits 2) ∧
    decode 0x00000000000000000100016000000108 = .error (.fixedBits 8) ∧
    decode 0x00000000000000001000001100010109 = .error (.fixedBits 9) ∧
    decode 0x00000000000000000000000000010199 = .error (.fixedBits 9) := by decide

/-- V-E2 and V-S5: the words of the two encoder commands. -/
theorem test_encode_words :
    encode (.encA 2 0x01 0x000160 0x1234) = 0x00000000000012340000016000000128 ∧
    encode (.encS 0 0xFF 0x800 0xF 6 0 0) = 0x00000000000000006F0008000000FF09 := by decide

/-- V-E2: the assembler form (R90). -/
theorem test_assembler : encode (asmEncA 0x01 0x000160 [0x34, 0x12]) = 0x00000000000012340000016000000128 := by decide

/-- The host's numbering of a word's bits, and a first instruction after reset (P1). -/
theorem test_table_word : decodeTableWord 128 0x3106 = some (.crcByte 0x31) ∧
    (issue 0x3106 State.reset).crc = (after (step (State.reset.withFetchWord 128 0x3106))).crc := by decide +kernel

/-! ## Sizes -/

/-- R7: 25 is the longest async frame. -/
theorem test_buffer_size :
    Config.bufLen = Config.headerLen + Params.standard.maxPayload + Params.standard.syncLen := by decide

/-! ## The alternatives of the parameters that the spec works out -/

/-- V-C2, V-C3, V-C4: the column from 0xFFFF, and the two published check values. -/
theorem test_crc_init : crcFold 0x1021 0xFFFF [0x1234, 0x5678] = 0x30EC ∧
    crcFold 0x1021 0xFFFF [0x0000, 0x0000, 0x0000, 0x0000, 0x0000, 0x0000] = 0x84F9 ∧
    [0x31, 0x32, 0x33, 0x34, 0x35, 0x36, 0x37, 0x38, 0x39].foldl (step8 0x1021) 0x0000 = 0x31C3 ∧
    [0x31, 0x32, 0x33, 0x34, 0x35, 0x36, 0x37, 0x38, 0x39].foldl (step8 0x1021) 0xFFFF = 0x29B1 := by decide +kernel

/-- R79: the index byte order. -/
theorem test_index_order : indexFrom .be 0x01 0x60 = 0x0160 ∧ indexFrom .le 0x60 0x01 = 0x0160 ∧
    indexBytes .le 0x0160 = [0x60, 0x01] := by decide

/-- The standard build but for `P_CRC_INIT = 0xFFFF` (D6). -/
def buildFFFF : Params := { Params.standard with crcInit := 0xFFFF }

/-- The standard build but for `P_INDEX_ORDER = LE` (D32). -/
def buildLE : Params := { Params.standard with indexOrder := .le }

/-- V-C3: in the build with `P_CRC_INIT = 0xFFFF`, `CRC_CLEAR` gives 0xFFFF and the all-zero `ENC_S` has CRC word 0x84F9. -/
theorem test_build_crc_init : (issue 5 (State.powerOn buildFFFF .sync)).crc = 0xFFFF ∧
    emitted (issue 9 (State.powerOn buildFFFF .sync)) = List.replicate 12 0x00 ++ [0x84, 0xF9] := by decide +kernel

/-- R79: in the build with `P_INDEX_ORDER = LE`, `ENC_A` of V-E2 has bytes 6 and 7 the other way round, and no other byte
changes. -/
theorem test_build_index_order :
    emitted (issue 0x00000000000012340000016000000128 (State.powerOn buildLE .async)) =
      [0x01, 0x2B, 0x0D, 0x00, 0x00, 0x01, 0x60, 0x01, 0x00, 0x00, 0x00, 0x00, 0x02, 0x34, 0x12, 0x55, 0x55, 0x55,
        0x55] := by decide +kernel

/-! ## One step of each instruction -/

/-- V-K1. -/
theorem test_nop_sync : seen (issue 0 (State.powerOn Params.standard .sync)) = (.ok, 0, 0x4000) := by decide +kernel

/-- V-K9: no restart. -/
theorem test_nop_complete : seen (issue 0 (completed .async frameE1)) = (.ok, 0, 0x2391) := by decide +kernel

/-- V-K2. -/
theorem test_reset : seen (issue 1 { building .async (frameE2.take 7) with crc := 0xA77A }) = (.ok, 0, 0x0000) ∧
    (issue 1 { building .async (frameE2.take 7) with crc := 0xA77A }).crc = 0x0000 := by decide +kernel

/-- V-P1, byte 18, and the field record. -/
theorem test_push_completes : seen (issue 0x5502 (building .async (frameE2.take 18))) = (.complete, 0, 0x2793) ∧
    (lastResponse (issue 0x5502 (building .async (frameE2.take 18)))).fields =
      { node := 1, node2 := 1, subnode := 0, flag := 0, index := 0x160, subindex := 0, address := 0x160, cmd := 0,
        pending := 0, length := 2, payload := #v[0x34, 0x12, 0, 0, 0, 0, 0, 0], crc := 0, isResponse := 0 } := by
  decide +kernel

/-- V-P5, byte 12. -/
theorem test_push_bad_length : seen (issue 0x0902 (building .async (frameE2.take 12))) = (.framingError, 2, 0x0001) := by
  decide +kernel

/-- V-K6. -/
theorem test_parserClear : seen (issue 3 (building .sync (frameS1.take 5))) = (.ok, 0, 0x4000) := by decide +kernel

/-- V-K5. -/
theorem test_frameRead_empty : seen (issue 4 State.reset) = (.invalidState, 0, 0x0000) := by decide +kernel

/-- V-K7. -/
theorem test_frameRead_latched :
    seen (issue 4 { completed .async frameE2 with pcnt := 4, pst := .awaitLen }) = (.ok, 0, 0x2744) ∧
    (lastResponse (issue 4 { completed .async frameE2 with pcnt := 4, pst := .awaitLen })).frameLen = 19 ∧
    (lastResponse (issue 4 { completed .async frameE2 with pcnt := 4, pst := .awaitLen })).fields.address = 0x000160 := by
  decide +kernel

/-- P1, line 10. -/
theorem test_crcClear : (issue 5 { State.reset with crc := 0xA77A }).crc = 0x0000 := by decide +kernel

/-- V-C1. -/
theorem test_crcByte : (lastResponse (issue 0x2B06 { State.reset with crc := 0xFFFF })).crc = 0x74F9 ∧
    (issue 0x8006 { State.reset with crc := 0x1021 }).crc = 0xA2B9 := by decide +kernel

/-- V-C6, and line 3 of P1. -/
theorem test_crcWord : (lastResponse (issue 0x12340007 State.reset)).crc = 0x13C6 ∧
    (issue 0x01120007 { State.reset with crc := 0x1231 }).crc = 0x4221 := by decide +kernel

/-- V-E3. -/
theorem test_encA : emitted (issue 0x08070605040302010003201000002088 State.reset) =
    [0x20, 0x2B, 0x0D, 0x00, 0x00, 0x20, 0x20, 0x10, 0x03, 0x00, 0x00, 0x00, 0x08, 0x01, 0x02, 0x03, 0x04, 0x05, 0x06,
      0x07, 0x08, 0x55, 0x55, 0x55, 0x55] := by decide +kernel

/-- V-X2. -/
theorem test_encA_refused :
    seen (issue 0x00000000000002010000016000000118 State.reset) = (.invalidArgument, 0, 0x0000) := by decide +kernel

/-- V-S3. -/
theorem test_encS : emitted (issue 0x0807060504030201B3000FFF00000A89 State.reset) =
    [0x00, 0xA3, 0xFF, 0xF7, 0x01, 0x02, 0x03, 0x04, 0x05, 0x06, 0x07, 0x08, 0xE5, 0x40] := by decide +kernel

/-- V-X4. -/
theorem test_encS_refused :
    seen (issue 0x00000000000000001000100000000109 State.reset) = (.invalidArgument, 0, 0x0000) := by decide +kernel

/-- V-K3 and line 4 of P5. -/
theorem test_reserved : seen (issue 0xA (building .sync (frameS1.take 3))) = (.notSupported, 0, 0x4023) ∧
    seen (issue 0xF (building .sync (frameS1.take 3))) = (.notSupported, 0, 0x4023) := by decide +kernel

/-- V-K8: the byte is not taken. -/
theorem test_fixed_bit : seen (issue 0x15502 State.reset) = (.notSupported, 0, 0x0000) := by decide +kernel

/-! ## States that meet the invariant, in the middle of a frame and after one -/

theorem asyncPartOk_of {buf : Buf} {n : Nat} (hf : 2 ≤ n → byteAt buf 1 = Params.standard.func)
    (ht : 3 ≤ n → byteAt buf 2 = Params.standard.typeCode) (hp : 13 ≤ n → declaredLen buf ≤ Params.standard.maxPayload)
    (hu : 13 ≤ n → n < Config.headerLen + declaredLen buf + Params.standard.syncLen)
    (hs : ∀ i, i < n → Config.headerLen + declaredLen buf ≤ i → 13 ≤ n → byteAt buf i = Params.standard.syncByte) :
    AsyncPartOk Params.standard buf n :=
  ⟨hf, ht, hp, hu, fun h i h1 h2 => hs i h2 h1 h⟩

theorem inv_building {v : Variant} {bs : List Byte} (h : PartOk Params.standard v (bufOf bs) (BitVec.ofNat 5 bs.length).toNat)
    (hn : bs.length < 32) : BlockInv (building v bs) := by
  refine ⟨standard_fits, fun _ => ⟨?_, h⟩, fun hc => absurd hc (stage_ne_complete _ _), (fun hf => by cases hf), fun _ => rfl⟩
  show stage v bs.length = stage v (BitVec.ofNat 5 bs.length).toNat
  rw [BitVec.toNat_ofNat, Nat.mod_eq_of_lt hn]

theorem inv_completed {v : Variant} {bs : List Byte} (h : FrameOk Params.standard v (bufOf bs) (BitVec.ofNat 5 bs.length).toNat) :
    BlockInv (completed v bs) :=
  ⟨standard_fits, fun hc => absurd rfl hc, fun _ => ⟨rfl, rfl, fun _ _ => rfl⟩, fun _ => h, fun hf => absurd hf (by simp [completed])⟩

theorem inv_async_1 : BlockInv (building .async (frameE2.take 1)) :=
  inv_building (asyncPartOk_of (by decide +kernel) (by decide +kernel) (by decide +kernel) (by decide +kernel)
    (by decide +kernel)) (by decide)

theorem inv_async_2 : BlockInv (building .async (frameE2.take 2)) :=
  inv_building (asyncPartOk_of (by decide +kernel) (by decide +kernel) (by decide +kernel) (by decide +kernel)
    (by decide +kernel)) (by decide)

theorem inv_async_12 : BlockInv (building .async (frameE2.take 12)) :=
  inv_building (asyncPartOk_of (by decide +kernel) (by decide +kernel) (by decide +kernel) (by decide +kernel)
    (by decide +kernel)) (by decide)

theorem inv_async_18 : BlockInv (building .async (frameE2.take 18)) :=
  inv_building (asyncPartOk_of (by decide +kernel) (by decide +kernel) (by decide +kernel) (by decide +kernel)
    (by decide +kernel)) (by decide)

theorem inv_async_24 : BlockInv (building .async (frameE3.take 24)) :=
  inv_building (asyncPartOk_of (by decide +kernel) (by decide +kernel) (by decide +kernel) (by decide +kernel)
    (by decide +kernel)) (by decide)

theorem inv_sync_13 : BlockInv (building .sync (frameS1.take 13)) :=
  inv_building (show _ < 14 by decide) (by decide)

theorem inv_async_completed : BlockInv (completed .async frameE2) :=
  inv_completed (show AsyncFrameOk _ _ _ from
    ⟨by decide +kernel, by decide +kernel, by decide +kernel, by decide +kernel, by decide +kernel⟩)

theorem inv_sync_completed : BlockInv (completed .sync frameS1) :=
  inv_completed (show SyncFrameOk _ _ _ from ⟨by decide +kernel, by decide +kernel⟩)

/-! ## Witnesses of the obligations' hypotheses: encoding -/

theorem witness_EncodeDecodeEveryAcceptedWord : ∃ c i, decode c = .ok i := ⟨0x2B02, .push 0x2B, by decide⟩

theorem witness_OperandFieldsTakenAsTheyStand : (∃ c b, decode c = .ok (.push b)) ∧ (∃ c b, decode c = .ok (.crcByte b)) ∧
    (∃ c w, decode c = .ok (.crcWord w)) ∧ (∃ c len b addr data, decode c = .ok (.encA len b addr data)) ∧
    (∃ c len b addr sub cmd pend data, decode c = .ok (.encS len b addr sub cmd pend data)) :=
  ⟨⟨0xFF02, 0xFF, by decide⟩, ⟨0xFF06, 0xFF, by decide⟩, ⟨0xFFFF0007, 0xFFFF, by decide⟩,
    ⟨0x00000000000000AA00FFFFFF0000FF18, 1, 0xFF, 0xFFFFFF, 0xAA, by decide⟩,
    ⟨0x0807060504030201B3000FFF00000A89, 8, 0x0A, 0xFFF, 3, 3, 1, 0x0807060504030201, by decide⟩⟩

theorem witness_WordHasOpcodeIffItMatchesTheRow : ∃ r ∈ opRows, (∃ c, r.hits c = true) ∧ ∃ c, r.hits c = false :=
  ⟨⟨"PUSH", 0x2, 0xFFFFFFFFFFFFFFFFFFFFFFFFFFFF00FF⟩, by decide, ⟨0x5502, by decide⟩, ⟨0x15502, by decide⟩⟩

theorem witness_WordRejectedIffNoRowMatches :
    ∃ c r, decode c = .error r ∧ ∀ r ∈ opRows, r.hits c = false := ⟨0x15502, .fixedBits 2, by decide, by decide⟩

theorem witness_AssembledPayloadBytes : ∃ ds : List Byte, ds.length ≤ 8 ∧ 7 < ds.length ∧
    ∃ es : List Byte, es.length ≤ 8 ∧ es.length ≤ 0 := ⟨[1, 2, 3, 4, 5, 6, 7, 8], by decide, by decide, [], by decide, by decide⟩

/-! ## Witnesses: the step and the control commands -/

theorem witness_StepRunsDecodedCommand : ∃ (s : State) (c : CmdWord) (rest : List CmdWord) (i : Instr),
    s.cmds = c :: rest ∧ decode c = .ok i :=
  ⟨placeCommand 0x2B02 (building .async (frameE2.take 1)), 0x2B02, [], .push 0x2B, rfl, by decide⟩

/-- A reserved opcode and a fixed bit (V-K3.A, V-K8). -/
theorem witness_WordThatSpellsNoCommandIsNotSupported : ∀ c ∈ [(0xA : CmdWord), 0x15502],
    ∃ (s : State) (rest : List CmdWord), s.cmds = c :: rest ∧ ∀ r ∈ opRows.take 10, r.hits c = false := by
  intro c hc
  refine ⟨placeCommand c State.reset, [], rfl, ?_⟩
  simp only [List.mem_cons, List.not_mem_nil, or_false] at hc
  rcases hc with rfl | rfl <;> decide

theorem witness_EveryCommandGetsOneResponse : ∃ (s t : State) (c : CmdWord) (rest : List CmdWord),
    s.cmds = c :: rest ∧ step s = .next t :=
  ⟨placeCommand 0x2B02 (building .async (frameE2.take 1)), _, 0x2B02, [], rfl, next_after (by decide +kernel)⟩

theorem witness_ReservedOpcodesAnswerNotSupported : (∃ i : Instr, ∃ low rest, i = .reservedAB low rest) ∧
    ∃ i : Instr, ∃ low rest, i = .reservedCF low rest := ⟨⟨_, 1, 5, rfl⟩, ⟨_, 3, 5, rfl⟩⟩

theorem witness_ClearingCommandsAreIdempotent : ∃ i j k : Instr,
    (i = .reset ∨ i = .parserClear ∨ i = .crcClear) ∧ (j = .reset ∨ j = .parserClear ∨ j = .crcClear) ∧
    (k = .reset ∨ k = .parserClear ∨ k = .crcClear) ∧ i ≠ j ∧ j ≠ k ∧ k ≠ i :=
  ⟨.reset, .parserClear, .crcClear, by decide⟩

/-! ## Witnesses: the CRC unit and the encoder -/

theorem witness_FrameCheckIsLinear : ∃ m e : List Word, m.length = e.length ∧ m ≠ [] := ⟨[0x1234], [0x8000], by decide⟩

theorem witness_SingleBitChangeChangesFrameCheck : ∃ (ps : Params) (ws : List Word) (i j : Nat),
    ps.crcPoly = 0x1021 ∧ ws.length = 6 ∧ i < 6 ∧ j < 16 :=
  ⟨Params.standard, [0x0010, 0x0112, 0, 0, 0, 0], 5, 15, by decide⟩

theorem witness_FrameCheckResidueIsZero : ∃ (ps : Params) (ws : List Word), ps.crcXorOut = 0x0000 ∧ ws.length = 6 :=
  ⟨Params.standard, [0x0010, 0x0112, 0, 0, 0, 0], by decide⟩

/-- The longest and the shortest payload, in the standard build and in one with `P_INDEX_ORDER = LE`. -/
theorem witness_EncAEmitsAsyncFrame :
    (∃ (s : State) (len : BitVec 4) (data : BitVec 64), len = 8 ∧ len.toNat ≤ s.params.maxPayload ∧
      13 + len.toNat + s.params.syncLen ≤ 25 ∧ ∀ k, k < 8 → len.toNat ≤ k → payloadByte data k = 0) ∧
    ∃ (s : State) (len : BitVec 4) (data : BitVec 64), s.params.indexOrder = .le ∧ len = 0 ∧
      len.toNat ≤ s.params.maxPayload ∧ 13 + len.toNat + s.params.syncLen ≤ 25 ∧
      ∀ k, k < 8 → len.toNat ≤ k → payloadByte data k = 0 :=
  ⟨⟨State.reset, 8, 0x0807060504030201, by decide⟩, ⟨State.powerOn buildLE .async, 0, 0, by decide⟩⟩

theorem witness_EncARefusesBadOperands :
    (∃ (s : State) (len : BitVec 4), s.params.maxPayload < len.toNat) ∧
    ∃ (len : BitVec 4) (data : BitVec 64), ∃ k, len.toNat ≤ k ∧ k < 8 ∧ payloadByte data k ≠ 0 :=
  ⟨⟨State.reset, 9, by decide⟩, ⟨1, 0x0201, 1, by decide⟩⟩

theorem witness_EncSEmitsSyncFrame : ∃ (s : State) (len : BitVec 4) (addr : BitVec 24) (cmd : BitVec 3)
    (data : BitVec 64), len.toNat ≤ s.params.maxPayload ∧ (∀ k, k < 8 → len.toNat ≤ k → payloadByte data k = 0) ∧ addr.toNat ≤ 0xFFF ∧ cmd ≠ 7 :=
  ⟨State.reset, 2, 0xFFF, 6, 0x1234, by decide⟩

theorem witness_EncSRefusesBadOperands :
    (∃ (s : State) (len : BitVec 4), s.params.maxPayload < len.toNat) ∧
    (∃ (len : BitVec 4) (data : BitVec 64), ∃ k, len.toNat ≤ k ∧ k < 8 ∧ payloadByte data k ≠ 0) ∧
    (∃ addr : BitVec 24, 0xFFF < addr.toNat) ∧ ∃ cmd : BitVec 3, cmd = 7 :=
  ⟨⟨State.reset, 15, by decide⟩, ⟨0, 0x0100000000000000, 7, by decide⟩, ⟨0x1000, by decide⟩, ⟨7, rfl⟩⟩

theorem witness_EncoderAnswersOkIffWellFormed : ∃ i j : Instr, (∃ len b addr data, i = .encA len b addr data) ∧
    i.wellFormed Params.standard = true ∧ (∃ len b addr sub cmd pend data, j = .encS len b addr sub cmd pend data) ∧
    j.wellFormed Params.standard = false :=
  ⟨.encA 1 0 0 0xAA, .encS 0 0 0 0 7 0 0, ⟨_, _, _, _, rfl⟩, by decide, ⟨_, _, _, _, _, _, _, rfl⟩, by decide⟩

/-! ## Witnesses: the parser -/

theorem witness_PushInCompleteRestarts : (completed .async frameE2).pst = .complete := rfl

theorem witness_AsyncMarkerChecks :
    (∃ s : State, s.variant = .async ∧ s.pst ≠ .complete ∧ s.pcnt = 0) ∧
    (∃ s : State, s.variant = .async ∧ s.pst ≠ .complete ∧ s.pcnt = 1 ∧ s.pst = .awaitFunc) ∧
    (∃ s : State, s.variant = .async ∧ s.pst ≠ .complete ∧ s.pcnt = 2 ∧ s.pst = .awaitType) ∧
    (∃ s : State, s.variant = .async ∧ s.pst ≠ .complete ∧ s.pcnt = 3 ∧ 3 ≤ s.pcnt.toNat ∧ s.pcnt.toNat ≤ 11) ∧
    ∃ s : State, s.variant = .async ∧ s.pst ≠ .complete ∧ s.pcnt = 11 ∧ 3 ≤ s.pcnt.toNat ∧ s.pcnt.toNat ≤ 11 :=
  ⟨⟨building .async [], by decide⟩, ⟨building .async (frameE2.take 1), by decide⟩,
    ⟨building .async (frameE2.take 2), by decide⟩, ⟨building .async (frameE2.take 3), by decide⟩,
    ⟨building .async (frameE2.take 11), by decide⟩⟩

/-- The clauses of the length check at their edges: 8 passes, 9 and 256 do not. -/
theorem witness_AsyncLengthCheck : ∃ s u : State, (s.variant = .async ∧ s.pst = .awaitLen ∧ s.pcnt = 12) ∧
    (u.variant = .async ∧ u.pst = .awaitLen ∧ u.pcnt = 12) ∧
    2 ^ 8 * (byteAt s.pbuf 11).toNat + (8 : Byte).toNat ≤ s.params.maxPayload ∧
    ¬2 ^ 8 * (byteAt s.pbuf 11).toNat + (9 : Byte).toNat ≤ s.params.maxPayload ∧
    ¬2 ^ 8 * (byteAt u.pbuf 11).toNat + (0 : Byte).toNat ≤ u.params.maxPayload :=
  ⟨building .async (frameE2.take 12), building .async (frameE2.take 11 ++ [1]), by decide +kernel⟩

/-- The first and last payload position and the first and last trailer position of a frame of declared length 2. -/
theorem witness_AsyncPayloadAndTrailer : ∃ s t u v : State, ∃ n : Nat, n = 2 ∧
    (∀ x ∈ [s, t, u, v], 13 + n + x.params.syncLen ≤ 25 ∧ n ≤ x.params.maxPayload) ∧
    (s.variant = .async ∧ s.pst = .awaitTrailer ∧ 2 ^ 8 * (byteAt s.pbuf 11).toNat + (byteAt s.pbuf 12).toNat = n ∧
      s.pcnt.toNat = 13) ∧
    (t.variant = .async ∧ t.pst = .awaitTrailer ∧ 2 ^ 8 * (byteAt t.pbuf 11).toNat + (byteAt t.pbuf 12).toNat = n ∧
      t.pcnt.toNat = 12 + n) ∧
    (u.variant = .async ∧ u.pst = .awaitTrailer ∧ 2 ^ 8 * (byteAt u.pbuf 11).toNat + (byteAt u.pbuf 12).toNat = n ∧
      u.pcnt.toNat = 13 + n) ∧
    (v.variant = .async ∧ v.pst = .awaitTrailer ∧ 2 ^ 8 * (byteAt v.pbuf 11).toNat + (byteAt v.pbuf 12).toNat = n ∧
      v.pcnt.toNat = 12 + n + v.params.syncLen) :=
  ⟨building .async (frameE2.take 13), building .async (frameE2.take 14), building .async (frameE2.take 15),
    building .async (frameE2.take 18), 2, rfl, by decide +kernel⟩

theorem witness_SyncBytesAndCrcCheck :
    (∃ s : State, s.variant = .sync ∧ s.pst ≠ .complete ∧ s.pcnt.toNat ≤ 12 ∧ s.pcnt = 0) ∧
    (∃ s : State, s.variant = .sync ∧ s.pst ≠ .complete ∧ s.pcnt.toNat ≤ 12 ∧ s.pcnt = 12) ∧
    ∃ s : State, s.variant = .sync ∧ s.pst ≠ .complete ∧ s.pcnt = 13 ∧ s.pst = .awaitTrailer ∧
      crc16 s.params (checkedWords s.pbuf) = wordOf (byteAt s.pbuf 12) 0xE1 ∧
      crc16 s.params (checkedWords s.pbuf) ≠ wordOf (byteAt s.pbuf 12) 0xE0 :=
  ⟨⟨building .sync [], by decide⟩, ⟨building .sync (frameS1.take 12), by decide⟩,
    ⟨building .sync (frameS1.take 13), by decide +kernel⟩⟩

/-- A framing error at the function code (V-P2). -/
theorem witness_FramingErrorKeepsTheByte : ∃ (s t : State) (b : Byte) (r : Response), exec (.push b) s = .next t ∧
    t.resps = s.resps ++ [r] ∧ r.status = .framingError :=
  have ⟨t, r, h⟩ : ∃ (t : State) (r : Response), exec (.push 0xFF) (building .async (frameE2.take 1)) = .next t ∧
      t.resps = (building .async (frameE2.take 1)).resps ++ [r] ∧ r.status = .framingError :=
    one_response (by decide +kernel)
  ⟨_, t, _, r, h⟩

/-- A framing error in each of the five cases: the function code, the type code, the length, the trailer, the CRC. -/
theorem witness_FramingErrorStateByPosition : ∀ p ∈ [(building .async (frameE2.take 1), (0xFF : Byte)),
      (building .async (frameE2.take 2), 0x0C), (building .async (frameE2.take 12), 0x09),
      (building .async (frameE2.take 18), 0x54), (building .sync (frameS1.take 13), 0xE0)],
    BlockInv p.1 ∧ ∃ (t : State) (r : Response), exec (.push p.2) p.1 = .next t ∧ t.resps = p.1.resps ++ [r] ∧
      r.status = .framingError := by
  intro p hp
  simp only [List.mem_cons, List.not_mem_nil, or_false] at hp
  rcases hp with rfl | rfl | rfl | rfl | rfl
  · exact ⟨inv_async_1, one_response (by decide +kernel)⟩
  · exact ⟨inv_async_2, one_response (by decide +kernel)⟩
  · exact ⟨inv_async_12, one_response (by decide +kernel)⟩
  · exact ⟨inv_async_18, one_response (by decide +kernel)⟩
  · exact ⟨inv_sync_13, one_response (by decide +kernel)⟩

theorem witness_PushEndsInOneOfThreeOutcomes : ∃ s t : State, BlockInv s ∧ BlockInv t ∧ s.variant ≠ t.variant :=
  ⟨_, _, inv_async_18, inv_sync_13, by decide⟩

/-- A byte that is accepted and leaves the latch. -/
theorem witness_PushLeavesTheRest : ∃ (s t : State) (b : Byte), exec (.push b) s = .next t ∧ t.pst ≠ .complete :=
  ⟨completed .async frameE2, _, 0x02, next_after (by decide +kernel), by decide +kernel⟩

theorem witness_UnnamedBytesStay : ∃ (s t : State) (b : Byte), exec (.push b) s = .next t ∧ t.pst = .complete ∧
    t.flLen.toNat ≤ 19 :=
  ⟨building .async (frameE2.take 18), _, 0x55, next_after (by decide +kernel), by decide +kernel⟩

theorem witness_FrameReadReturnsTheLatch : ∃ s t : State, s.flValid = true ∧ t.flValid = false :=
  ⟨completed .sync frameS1, State.reset, rfl, rfl⟩

/-- Declared lengths 0 and 2 (V-E1, V-E2). -/
theorem witness_AsyncAccessors :
    (∃ (fl : Buf) (n : Nat), 2 ^ 8 * (byteAt fl 11).toNat + (byteAt fl 12).toNat = n ∧ n = 0) ∧
    ∃ (fl : Buf) (n : Nat), 2 ^ 8 * (byteAt fl 11).toNat + (byteAt fl 12).toNat = n ∧ n = 2 :=
  ⟨⟨bufOf frameE1, 0, by decide +kernel⟩, ⟨bufOf frameE2, 2, by decide +kernel⟩⟩

/-! ## Witnesses: the invariant and the whole machine -/

theorem inv_placeCommand {s : State} (c : CmdWord) (h : BlockInv s) : BlockInv (placeCommand c s) :=
  ⟨h.fits, h.building, h.completed, h.latched, h.empty⟩

/-- A step that completes a frame, from a state that meets the invariant. -/
theorem witness_StepKeepsInvariant : ∃ s t : State, BlockInv s ∧ step s = .next t ∧ t.pst = .complete :=
  ⟨placeCommand 0x5502 (building .async (frameE2.take 18)), _, inv_placeCommand _ inv_async_18,
    next_after (by decide +kernel), by decide +kernel⟩

/-- The 25th byte of the longest async frame (V-P9), and the last byte of a sync frame (V-P10). -/
theorem witness_PcntStaysInBounds :
    (∃ s t : State, BlockInv s ∧ step s = .next t ∧ t.variant = .async ∧ t.pcnt = 25) ∧
    ∃ s t : State, BlockInv s ∧ step s = .next t ∧ t.variant = .sync ∧ t.pcnt = 14 :=
  ⟨⟨placeCommand 0x5502 (building .async (frameE3.take 24)), _, inv_placeCommand _ inv_async_24,
      next_after (by decide +kernel), by decide +kernel⟩,
    ⟨placeCommand 0xE102 (building .sync (frameS1.take 13)), _, inv_placeCommand _ inv_sync_13,
      next_after (by decide +kernel), by decide +kernel⟩⟩

/-- The last byte of an async and of a sync frame, and a step that leaves a completed frame completed. -/
theorem witness_CompleteMeansLatched :
    (∃ s t : State, BlockInv s ∧ step s = .next t ∧ t.pst = .complete ∧ t.variant = .async ∧ s.pst = .awaitTrailer) ∧
    (∃ s t : State, BlockInv s ∧ step s = .next t ∧ t.pst = .complete ∧ t.variant = .sync ∧ s.pst = .awaitTrailer) ∧
    ∃ s t : State, BlockInv s ∧ step s = .next t ∧ t.pst = .complete ∧ s.pst = .complete :=
  ⟨⟨placeCommand 0x5502 (building .async (frameE2.take 18)), _, inv_placeCommand _ inv_async_18,
      next_after (by decide +kernel), by decide +kernel⟩,
    ⟨placeCommand 0xE102 (building .sync (frameS1.take 13)), _, inv_placeCommand _ inv_sync_13,
      next_after (by decide +kernel), by decide +kernel⟩,
    ⟨placeCommand 0x0 (completed .async frameE2), _, inv_placeCommand _ inv_async_completed,
      next_after (by decide +kernel), by decide +kernel⟩⟩

theorem witness_NoStepStops : ∃ s : State, BlockInv s ∧ s.cmds ≠ [] :=
  ⟨placeCommand 0x15502 (building .async (frameE2.take 12)), inv_placeCommand _ inv_async_12, by decide⟩

/-- One command answered with each of the three statuses: V-K8, V-X4, V-K5. -/
theorem witness_RefusedCommandsChangeNothing : ∀ p ∈ [((0x15502 : CmdWord), Status.notSupported),
      (0x00000000000000001000100000000109, .invalidArgument), (0x4, .invalidState)],
    ∃ s : State, s.cmds = [p.1] ∧ ∃ (t : State) (r : Response), step s = .next t ∧ t.resps = s.resps ++ [r] ∧
      r.status = p.2 := by
  intro p hp
  simp only [List.mem_cons, List.not_mem_nil, or_false] at hp
  rcases hp with rfl | rfl | rfl
  · exact ⟨placeCommand 0x15502 State.reset, rfl, one_response (by decide +kernel)⟩
  · exact ⟨placeCommand 0x00000000000000001000100000000109 State.reset, rfl, one_response (by decide +kernel)⟩
  · exact ⟨placeCommand 0x4 State.reset, rfl, one_response (by decide +kernel)⟩

/-- A step that writes the latch. -/
theorem witness_OnlyNamedCommandsWrite : ∃ (s t : State) (i : Instr), exec i s = .next t ∧ t.pst ≠ s.pst ∧
    t.pcnt ≠ s.pcnt ∧ t.pbuf ≠ s.pbuf ∧ t.flValid ≠ s.flValid ∧ t.flLen ≠ s.flLen ∧ t.fl ≠ s.fl :=
  ⟨building .async (frameE2.take 18), _, .push 0x55, next_after (by decide +kernel), by decide +kernel⟩

theorem witness_OnlyNamedCommandsWrite_crc : ∃ (s t : State) (i : Instr), exec i s = .next t ∧ t.crc ≠ s.crc :=
  ⟨State.reset, _, .crcByte 0x01, next_after (by decide +kernel), by decide +kernel⟩

theorem witness_CrcRegisterIsInvisibleToTheOtherUnits : (∃ i : Instr, ∃ b, i = .push b) ∧
    (∃ i : Instr, ∃ len b addr data, i = .encA len b addr data) ∧
    ∃ i : Instr, ∃ len b addr sub cmd pend data, i = .encS len b addr sub cmd pend data :=
  ⟨⟨_, 0x55, rfl⟩, ⟨_, 2, 1, 0x160, 0x1234, rfl⟩, ⟨_, 0, 1, 0x11, 0, 1, 0, 0, rfl⟩⟩

/-- Two states that differ in a byte of `PBUF` above `PCNT`, and a step of the first that completes a frame. -/
theorem witness_UnspecifiedBytesAreUnobservable : ∃ s s' t : State, BlockInv s ∧ observable s' = observable s ∧
    s' ≠ s ∧ step s = .next t ∧ t.pst = .complete :=
  ⟨placeCommand 0x5502 (building .async (frameE2.take 18)),
    { placeCommand 0x5502 (building .async (frameE2.take 18)) with
      pbuf := setByte (bufOf (frameE2.take 18)) 20 0xFF
      fl := setByte Buf.zero 3 0xFF },
    _, inv_placeCommand _ inv_async_18, by decide +kernel, by decide +kernel, next_after (by decide +kernel),
    by decide +kernel⟩

/-! ## Witnesses: whole frames -/

theorem witness_AsyncRoundTrip : ∃ (s u : State) (len : BitVec 4) (data : BitVec 64),
    (∀ x ∈ [s, u], 0 < x.params.syncLen ∧ 13 + len.toNat + x.params.syncLen ≤ 25) ∧ s.variant = .async ∧ s.pcnt = 0 ∧ u.variant = .async ∧ u.pst = .complete ∧ len.toNat ≤ s.params.maxPayload ∧
    len.toNat ≤ u.params.maxPayload ∧ ∀ k, k < 8 → len.toNat ≤ k → payloadByte data k = 0 :=
  ⟨building .async [], completed .async frameE2, 2, 0x1234, by decide⟩

theorem witness_SyncRoundTrip : ∃ (s u : State) (len : BitVec 4) (addr : BitVec 24) (cmd : BitVec 3) (data : BitVec 64),
    s.variant = .sync ∧ s.pcnt = 0 ∧ u.variant = .sync ∧ u.pst = .complete ∧
    len.toNat ≤ s.params.maxPayload ∧ len.toNat ≤ u.params.maxPayload ∧ addr.toNat ≤ 0xFFF ∧
    cmd ≠ 7 ∧ ∀ k, k < 8 → len.toNat ≤ k → payloadByte data k = 0 :=
  ⟨building .sync [], completed .sync frameS1, 8, 0xFFF, 3, 0x0807060504030201, by decide⟩

/-- The standard build, at a frame start and after a frame, and the build with `P_CRC_INIT = 0xFFFF`. -/
theorem witness_AllZeroSyncFrameCompletes : ∀ q ∈ [(building .sync [], (0x0000 : Word)),
      (completed .sync frameS1, 0x0000), (State.powerOn buildFFFF .sync, 0xFFFF)],
    q.1.variant = .sync ∧ (q.1.pcnt = 0 ∨ q.1.pst = .complete) ∧ 0 ∉ q.1.params.respCmds ∧
      q.1.params.crcPoly = 0x1021 ∧ q.1.params.crcXorOut = 0x0000 ∧ q.1.params.crcInit = q.2 := by decide

/-- The frame of V-E1 after one noise byte. -/
theorem witness_AsyncResynchronisesAfterFramingError : ∃ (s : State) (xs : List Byte), s.params.Fits ∧
    s.variant = .async ∧ s.pcnt = 1 ∧ s.pst = .awaitFunc ∧ AsyncFrameOk s.params (bufOf xs) xs.length ∧
    xs.getD 0 0 ≠ s.params.func :=
  ⟨building .async [0x00], frameE1, standard_fits, rfl, rfl, rfl,
    ⟨by decide +kernel, by decide +kernel, by decide +kernel, by decide +kernel, by decide +kernel⟩, by decide⟩

theorem witness_SyncSingleBitCorruptionDetected : ∃ (s u : State) (ws : List Word) (i j : Nat),
    s.params.crcPoly = 0x1021 ∧ u.params.crcPoly = 0x1021 ∧ s.variant = .sync ∧ s.pcnt = 0 ∧ u.variant = .sync ∧ u.pst = .complete ∧
    ws.length = 6 ∧ i < 14 ∧ j < 8 ∧ i = 13 ∧ j = 7 :=
  ⟨building .sync [], completed .sync frameS1, [0x0010, 0x0112, 0, 0, 0, 0], 13, 7, by decide⟩

theorem witness_FrameEndsWithinTwentyFiveBytes : ∃ (s : State) (bs : List Byte), BlockInv s ∧ bs.length = 25 :=
  ⟨_, List.replicate 25 0x00, inv_async_12, rfl⟩

end Sys2Proof.Tests
end

section
/-! PROOFS. The step (00_scope.md R9, R62, R200): which command it runs, that each command run to a next state is answered
exactly once, and the build parameters as configuration (R6). -/
namespace Sys2Proof.Proofs
open Sys2Proof.Machine

/-! ### Every command that answers gives exactly one response (R62, R200) -/

/-- An operation that leaves the client's two lists alone and ends in `answer` gives exactly that response. -/
theorem responded_of_answer {s u t : State} {r : Response} (hcmds : u.cmds = s.cmds) (hresps : u.resps = s.resps)
    (h : answer u r = .next t) : Responded s t r := by
  obtain rfl : respond u r = t := answer_eq_next.1 h
  exact ⟨by simp [hcmds], by simp [hresps]⟩

/-- `PUSH`: the restart, the store and each of the three results leave the client's lists alone (R140 to R143, R148). -/
theorem responded_of_execPush {s t : State} {b : Byte} (h : execPush b s = .next t) : ∃ r, Responded s t r := by
  obtain ⟨-, k, -, hk⟩ := pushByte_next h
  obtain ⟨-, rfl⟩ | ⟨-, rfl⟩ | ⟨-, rfl⟩ := pushResult_next hk
  · exact ⟨_, responded_of_answer (by simp) (by simp) rfl⟩
  · exact ⟨_, responded_of_answer (by simp) (by simp) rfl⟩
  · exact ⟨_, responded_of_answer (by simp) (by simp) rfl⟩

/-- `FRAME_READ`, `ENC_A` and `ENC_S`: refused or carried out, the command answers in the state as it stands. -/
theorem responded_of_ite_answer {p : Prop} [Decidable p] {s t : State} {r r' : Response}
    (h : (if p then answer s r else answer s r') = .next t) : ∃ q, Responded s t q := by
  split at h
  · exact ⟨r, responded_of_answer rfl rfl h⟩
  · exact ⟨r', responded_of_answer rfl rfl h⟩

/-- A command that answers a next state takes no command word and gives exactly one response. -/
theorem responded_of_exec {i : Instr} {s t : State} (h : exec i s = .next t) : ∃ r, Responded s t r := by
  cases i with
  | push b => exact responded_of_execPush h
  | frameRead => exact responded_of_ite_answer h
  | encA len b addr data => exact responded_of_ite_answer h
  | encS len b addr sub cmd pend data => exact responded_of_ite_answer h
  | nop => exact ⟨_, responded_of_answer rfl rfl h⟩
  | reset => exact ⟨_, responded_of_answer (resetBlock_cmds s) (resetBlock_resps s) h⟩
  | parserClear => exact ⟨_, responded_of_answer (clearParser_cmds s) (clearParser_resps s) h⟩
  | crcClear => exact ⟨_, responded_of_answer (setCrc_cmds s _) (setCrc_resps s _) h⟩
  | crcByte b => exact ⟨_, responded_of_answer (setCrc_cmds s _) (setCrc_resps s _) h⟩
  | crcWord w => exact ⟨_, responded_of_answer (setCrc_cmds s _) (setCrc_resps s _) h⟩
  | reservedAB low rest => exact ⟨_, responded_of_answer rfl rfl h⟩
  | reservedCF low rest => exact ⟨_, responded_of_answer rfl rfl h⟩

/-- A step with a command issued responds once, in the state with that command taken: also to a word that spells no
command (R182). -/
theorem responded_of_step {s t : State} {c : CmdWord} {rest : List CmdWord} (hs : s.cmds = c :: rest)
    (h : step s = .next t) : ∃ r, Responded { s with cmds := rest } t r := by
  cases hd : decode c with
  | ok i =>
    rw [step_decoded hs hd] at h
    exact responded_of_exec h
  | error e =>
    rw [step_rejected hs hd] at h
    exact ⟨_, responded_of_answer rfl rfl h⟩

/-! ### The obligations -/

/-- Settles O10: the step responds exactly once in the state with the word taken, and `Responded` gives `STAT`. -/
theorem everyCommandGetsOneResponse : Obligations.EveryCommandGetsOneResponse := by
  intro s t c rest hs h
  obtain ⟨r, hcmds, hresps⟩ := responded_of_step hs h
  exact ⟨hcmds, _, hresps, rfl⟩

/-- Settles O8, by the law of the step on a word that decodes. -/
theorem stepRunsDecodedCommand : Obligations.StepRunsDecodedCommand :=
  fun _ _ _ _ hs hd => step_decoded hs hd

/-- `State.reset` is the build with the column *value* of R6. -/
theorem reset_params : State.reset.params = Params.standard := powerOn_params _ _

/-- The response codes of the standard build (R6, D18). -/
theorem mem_standard_respCmds (c : BitVec 3) : c ∈ Params.standard.respCmds ↔ c = 3 ∨ c = 4 ∨ c = 5 ∨ c = 6 := by
  simp [Params.standard]

/-- Settles O60: power-on keeps the parameters it is given, and those of reset are `Params.standard`, read off field by
field. -/
theorem buildParametersAreConfiguration : Obligations.BuildParametersAreConfiguration := by
  unfold Obligations.BuildParametersAreConfiguration
  rw [reset_params]
  exact ⟨fun ps v => ⟨powerOn_params ps v, powerOn_variant ps v⟩, rfl, rfl, rfl, rfl, rfl, rfl, rfl, rfl, rfl, rfl,
    mem_standard_respCmds⟩

end Sys2Proof.Proofs
end

section
/-! PROOFS. The invariant of the parser and the latch (10_state.md R28 to R31): each check that passes keeps the part
of a frame held correct, the last one makes it a whole frame, and so every step keeps the invariant. -/
namespace Sys2Proof.Proofs
open Sys2Proof.Machine

/-! ### What each result of a check says (R144, R145, R146, R149) -/

theorem requireByte_eq_pass {b want : Byte} : requireByte b want = .pass ↔ b = want := by
  by_cases h : b = want
  · simp [h]
  · simp [requireByte_ne h, h]

@[simp] theorem requireByte_ne_done (b want : Byte) : requireByte b want ≠ .done := by
  by_cases h : b = want
  · simp [h]
  · simp [requireByte_ne h]

/-- The four ways the trailer check can answer, by position and byte (R149). -/
theorem checkTrailer_cases {ps : Params} {n p : Nat} {b : Byte} {k : Check} (h : checkTrailer ps n p b = some k) :
    (k = .pass ∧ p < 13 + n) ∨ (k = .fail ∧ b ≠ ps.syncByte) ∨
    (k = .done ∧ b = ps.syncByte ∧ 13 + n ≤ p ∧ p + 1 = 13 + n + ps.syncLen) ∨
    (k = .pass ∧ b = ps.syncByte ∧ p + 1 < 13 + n + ps.syncLen) := by
  rcases Nat.lt_or_ge p (13 + n) with hp | hp
  · rw [checkTrailer_payload _ _ hp] at h
    exact .inl ⟨by simpa using h.symm, hp⟩
  rcases Nat.lt_or_ge p (13 + n + ps.syncLen) with hp' | hp'
  · by_cases hb : b = ps.syncByte
    · subst hb
      rcases Nat.lt_or_eq_of_le (Nat.succ_le_of_lt hp') with hl | hl
      · rw [checkTrailer_good hp hl] at h
        exact .inr (.inr (.inr ⟨by simpa using h.symm, rfl, hl⟩))
      · rw [checkTrailer_last hp hl] at h
        exact .inr (.inr (.inl ⟨by simpa using h.symm, rfl, hp, hl⟩))
    · rw [checkTrailer_bad hp hp' hb] at h
      exact .inr (.inl ⟨by simpa using h.symm, hb⟩)
  · simp [checkTrailer, Config.headerLen, Nat.not_lt.2 hp, Nat.not_lt.2 hp'] at h

/-- Up to the end of the frame the trailer check answers. -/
theorem checkTrailer_answers (ps : Params) {n p : Nat} (b : Byte) (hp : p < 13 + n + ps.syncLen) :
    ∃ k, checkTrailer ps n p b = some k := by
  unfold checkTrailer Config.headerLen
  split_ifs <;> exact ⟨_, rfl⟩

/-- A position of an async frame: its check differs from one stretch to the next (R78). -/
theorem async_position_cases (p : Nat) : p = 0 ∨ p = 1 ∨ p = 2 ∨ (3 ≤ p ∧ p ≤ 11) ∨ p = 12 ∨ 13 ≤ p := by omega

/-- What an async byte that passes its check has met (R144, R145, R149). -/
theorem check_async_pass {ps : Params} {buf : Buf} {p : Nat} {b : Byte} (hf : ps.Fits)
    (h : check ps .async buf p b = some .pass) :
    (p = 1 → b = ps.func) ∧ (p = 2 → b = ps.typeCode) ∧ (p = 12 → declaredLen buf ≤ ps.maxPayload) ∧
    (13 ≤ p → p + 1 < 13 + declaredLen buf + ps.syncLen ∧ (13 + declaredLen buf ≤ p → b = ps.syncByte)) := by
  refine ⟨?_, ?_, ?_, fun hp => ?_⟩
  · rintro rfl
    simpa [requireByte_eq_pass] using h
  · rintro rfl
    simpa [requireByte_eq_pass] using h
  · rintro rfl
    simpa using h
  · have hs := hf.trailer
    rw [check_async_tail _ _ _ hp] at h
    obtain ⟨-, hlt⟩ | ⟨hk, -⟩ | ⟨hk, -⟩ | ⟨-, hb, hlt⟩ := checkTrailer_cases h
    · exact ⟨by omega, by omega⟩
    · cases hk
    · cases hk
    · exact ⟨hlt, fun _ => hb⟩

/-- Only the last byte of the trailer finishes an async frame (R148, R149). -/
theorem check_async_done {ps : Params} {buf : Buf} {p : Nat} {b : Byte} (h : check ps .async buf p b = some .done) :
    13 ≤ p ∧ p + 1 = 13 + declaredLen buf + ps.syncLen ∧ b = ps.syncByte := by
  obtain rfl | rfl | rfl | ⟨h3, h11⟩ | rfl | hp := async_position_cases p
  · simp at h
  · simp at h
  · simp at h
  · simp [check_async_header _ _ _ h3 h11] at h
  · rw [check_async_length] at h
    split at h <;> simp at h
  · rw [check_async_tail _ _ _ hp] at h
    obtain ⟨hk, -⟩ | ⟨hk, -⟩ | ⟨-, hb, -, he⟩ | ⟨hk, -⟩ := checkTrailer_cases h
    · cases hk
    · cases hk
    · exact ⟨hp, he, hb⟩
    · cases hk

/-- A sync byte that passes its check is not the last of its frame (R146). -/
theorem check_sync_pass {ps : Params} {buf : Buf} {p : Nat} {b : Byte} (h : check ps .sync buf p b = some .pass) :
    p < 13 := by
  rcases Nat.lt_trichotomy p 13 with hp | rfl | hp
  · exact hp
  · rw [check_sync_last] at h
    split at h <;> simp at h
  · simp [check_sync_past _ _ _ hp] at h

/-- A sync frame is finished by the second byte of its CRC word, which is the frame check of the six words (R146). -/
theorem check_sync_done {ps : Params} {buf : Buf} {p : Nat} {b : Byte} (h : check ps .sync buf p b = some .done) :
    p = 13 ∧ crc16 ps (checkedWords buf) = wordAt buf 6 := by
  rcases Nat.lt_trichotomy p 13 with hp | rfl | hp
  · simp [check_sync_early _ _ _ hp] at h
  · rw [check_sync_last] at h
    split at h
    · exact ⟨rfl, ‹_›⟩
    · simp at h
  · simp [check_sync_past _ _ _ hp] at h

/-! ### Parts of frames and whole frames -/

/-- With at most one byte held nothing has been checked yet (R144, R146). -/
theorem partOk_of_le_one (ps : Params) (v : Variant) (buf : Buf) {n : Nat} (h : n ≤ 1) : PartOk ps v buf n := by
  cases v with
  | async => exact ⟨by omega, by omega, by omega, by omega, by omega⟩
  | sync => exact Nat.lt_of_le_of_lt h (by decide)

theorem stage_of_le_one (v : Variant) {n : Nat} (h : n ≤ 1) : stage v n = .awaitFunc := by
  cases v <;> exact if_pos h

/-- The part of a frame held is shorter than the frame, which fits the buffer (R31). -/
theorem partOk_lt {ps : Params} {v : Variant} {buf : Buf} {n : Nat} (hf : ps.Fits) (h : PartOk ps v buf n) :
    n < 25 ∧ (v = .sync → n < 14) := by
  cases v with
  | sync =>
    have hn : n < 14 := h
    exact ⟨by omega, fun _ => hn⟩
  | async =>
    refine ⟨?_, by simp⟩
    obtain ⟨-, hframe, -⟩ := hf
    rw [Config.headerLen, Config.bufLen] at hframe
    rcases Nat.lt_or_ge n 13 with hn | hn
    · omega
    · have hu := h.unfinished hn
      have hm := h.payload_fits hn
      rw [Config.headerLen] at hu
      omega

/-- A whole frame fits the buffer (R7, R31). -/
theorem frameOk_le {ps : Params} {v : Variant} {buf : Buf} {n : Nat} (hf : ps.Fits) (h : FrameOk ps v buf n) :
    n ≤ 25 ∧ (v = .sync → n ≤ 14) := by
  cases v with
  | sync =>
    have hn : n = 14 := h.total
    exact ⟨by omega, fun _ => hn.le⟩
  | async =>
    refine ⟨?_, by simp⟩
    obtain ⟨hm, ht, -⟩ := h
    obtain ⟨-, hframe, -⟩ := hf
    rw [Config.headerLen, Config.bufLen] at hframe
    rw [Config.headerLen] at ht
    omega

/-- At the next position of an unfinished frame the check answers: `noRuleForPosition` is not reached (R31). -/
theorem check_answers {ps : Params} {v : Variant} {buf : Buf} {p : Nat} (b : Byte) (h : PartOk ps v buf p) :
    ∃ k, check ps v (setByte buf p b) p b = some k := by
  cases v with
  | sync =>
    have hp : p < 14 := h
    rcases Nat.lt_or_eq_of_le (Nat.le_of_lt_succ hp) with hp | rfl
    · exact ⟨_, check_sync_early _ _ _ hp⟩
    · exact ⟨_, check_sync_last _ _ _⟩
  | async =>
    obtain rfl | rfl | rfl | ⟨h3, h11⟩ | rfl | hp := async_position_cases p
    · exact ⟨_, check_zero _ _ _ _⟩
    · exact ⟨_, check_async_func _ _ _⟩
    · exact ⟨_, check_async_type _ _ _⟩
    · exact ⟨_, check_async_header _ _ _ h3 h11⟩
    · exact ⟨_, check_async_length _ _ _⟩
    · rw [check_async_tail _ _ _ hp, declaredLen_setByte _ _ (by omega) (by omega)]
      exact checkTrailer_answers _ _ (h.unfinished hp)

/-- A byte that passes its check extends the part of a frame held (R28). -/
theorem partOk_of_pass {ps : Params} {v : Variant} {buf : Buf} {p : Nat} {b : Byte} (hf : ps.Fits)
    (h : PartOk ps v buf p) (hk : check ps v (setByte buf p b) p b = some .pass) :
    PartOk ps v (setByte buf p b) (p + 1) := by
  have hp25 := (partOk_lt hf h).1
  cases v with
  | sync => exact Nat.succ_lt_succ (check_sync_pass hk)
  | async =>
    obtain ⟨hfunc, htype, hlen, htail⟩ := check_async_pass hf hk
    have hs := hf.trailer
    have hd : 13 ≤ p → declaredLen (setByte buf p b) = declaredLen buf :=
      fun hp => declaredLen_setByte _ _ (by omega) (by omega)
    refine ⟨fun hp => ?_, fun hp => ?_, fun hp => ?_, fun hp => ?_, fun hp i hi hip => ?_⟩
    · rw [byteAt_setByte _ _ _ _ hp25]
      split_ifs with hi
      · exact hfunc hi.symm
      · exact h.func (by omega)
    · rw [byteAt_setByte _ _ _ _ hp25]
      split_ifs with hi
      · exact htype hi.symm
      · exact h.typeCode (by omega)
    · rcases Nat.lt_or_ge p 13 with hp' | hp'
      · exact hlen (by omega)
      · exact hd hp' ▸ h.payload_fits hp'
    · rw [Config.headerLen]
      rcases Nat.lt_or_ge p 13 with hp' | hp'
      · omega
      · exact (htail hp').1
    · rw [Config.headerLen] at hi
      rw [byteAt_setByte _ _ _ _ hp25]
      split_ifs with hip'
      · exact (htail (by omega)).2 (by omega)
      · exact h.trailer (by omega) i (hd (by omega) ▸ hi) (by omega)

/-- The byte that finishes a frame makes it a whole valid one (R148). -/
theorem frameOk_of_done {ps : Params} {v : Variant} {buf : Buf} {p : Nat} {b : Byte} (hf : ps.Fits)
    (h : PartOk ps v buf p) (hk : check ps v (setByte buf p b) p b = some .done) :
    FrameOk ps v (setByte buf p b) (p + 1) := by
  have hp25 := (partOk_lt hf h).1
  cases v with
  | sync =>
    obtain ⟨rfl, hcrc⟩ := check_sync_done hk
    exact ⟨rfl, hcrc⟩
  | async =>
    obtain ⟨hp, htotal, rfl⟩ := check_async_done hk
    have hd : declaredLen (setByte buf p ps.syncByte) = declaredLen buf :=
      declaredLen_setByte _ _ (by omega) (by omega)
    refine ⟨hd ▸ h.payload_fits hp, htotal, ?_, ?_, fun k hk => ?_⟩
    · rw [byteAt_setByte_ne _ _ _ _ (by omega)]
      exact h.func (by omega)
    · rw [byteAt_setByte_ne _ _ _ _ (by omega)]
      exact h.typeCode (by omega)
    · rw [byteAt_setByte _ _ _ _ hp25]
      split_ifs with hi
      · rfl
      · rw [Config.headerLen] at hi ⊢
        exact h.trailer hp _ (by rw [Config.headerLen]; omega) (by omega)

/-- Whether a buffer holds a whole frame depends on the bytes of that frame alone. -/
theorem frameOk_congr {ps : Params} {v : Variant} {x y : Buf} {n : Nat} (h : FrameOk ps v x n)
    (hxy : ∀ i, i < n → byteAt y i = byteAt x i) : FrameOk ps v y n := by
  cases v with
  | sync =>
    obtain ⟨rfl, hcrc⟩ := h
    rw [Config.syncFrameLen] at hxy
    refine ⟨rfl, ?_⟩
    rwa [checkedWords_congr fun i hi => hxy i (by omega), wordAt_congr (hxy 12 (by omega)) (hxy 13 (by omega))]
  | async =>
    obtain ⟨hm, ht, hfunc, htype, htrail⟩ := h
    have ht' := ht
    rw [Config.headerLen] at ht'
    have hd : declaredLen y = declaredLen x := declaredLen_congr (hxy 11 (by omega)) (hxy 12 (by omega))
    refine ⟨hd ▸ hm, hd ▸ ht, ?_, ?_, fun k hk => ?_⟩
    · rw [hxy 1 (by omega), hfunc]
    · rw [hxy 2 (by omega), htype]
    · rw [hd, hxy _ (by omega), htrail k hk]

/-! ### The invariant under each operation -/

/-- A parser building a frame, beside the configuration and the latch of a state that meets the invariant (R28). -/
theorem blockInv_of_building {s t : State} (h : BlockInv s) (hps : t.params = s.params) (hv : t.variant = s.variant)
    (hval : t.flValid = s.flValid) (hlen : t.flLen = s.flLen) (hfl : t.fl = s.fl)
    (hst : t.pst = stage t.variant t.pcnt.toNat) (hpart : PartOk t.params t.variant t.pbuf t.pcnt.toNat) :
    BlockInv t where
  fits := hps ▸ h.fits
  building _ := ⟨hst, hpart⟩
  completed hc := absurd (hst.symm.trans hc) (stage_ne_complete _ _)
  latched hl := by
    rw [hps, hv, hfl, hlen]
    exact h.latched (hval ▸ hl)
  empty he := hlen ▸ h.empty (hval ▸ he)

theorem blockInv_respond {s : State} (h : BlockInv s) (r : Response) : BlockInv (respond s r) :=
  ⟨h.fits, h.building, h.completed, h.latched, h.empty⟩

theorem blockInv_setCrc {s : State} (h : BlockInv s) (v : Word) : BlockInv (setCrc s v) :=
  ⟨h.fits, h.building, h.completed, h.latched, h.empty⟩

theorem blockInv_withCmds {s : State} (h : BlockInv s) (cmds : List CmdWord) : BlockInv { s with cmds := cmds } :=
  ⟨h.fits, h.building, h.completed, h.latched, h.empty⟩

theorem blockInv_clearParser {s : State} (h : BlockInv s) : BlockInv (clearParser s) :=
  blockInv_of_building h rfl rfl rfl rfl rfl (stage_of_le_one _ (by simp)).symm (partOk_of_le_one _ _ _ (by simp))

theorem blockInv_restart {s : State} (h : BlockInv s) : BlockInv (restart s) := by
  by_cases hc : s.pst = .complete
  · exact restart_complete hc ▸ blockInv_clearParser h
  · exact (restart_building hc).symm ▸ h

theorem blockInv_resetBlock {s : State} (h : BlockInv s) : BlockInv (resetBlock s) where
  fits := h.fits
  building _ := ⟨(stage_of_le_one _ (by simp)).symm, partOk_of_le_one _ _ _ (by simp)⟩
  completed hc := by cases hc
  latched hl := by cases hl
  empty _ := rfl

/-- The power-on state of a build that fits: no byte held and an empty latch (R28, R30, R220). -/
theorem blockInv_powerOn {ps : Params} (hf : ps.Fits) (v : Variant) : BlockInv (State.powerOn ps v) where
  fits := hf
  building _ := ⟨(stage_of_le_one _ (by simp)).symm, partOk_of_le_one _ _ _ (by simp)⟩
  completed hc := by cases hc
  latched hl := by cases hl
  empty _ := rfl

theorem partOk_of_blockInv {s : State} (h : BlockInv s) (hs : s.pst ≠ .complete) :
    PartOk s.params s.variant s.pbuf s.pcnt.toNat :=
  (h.building hs).2

/-- In `COMPLETE` the latch holds the frame just completed, of `PCNT` bytes (R29). -/
theorem frameOk_of_blockInv {s : State} (h : BlockInv s) (hs : s.pst = .complete) :
    FrameOk s.params s.variant s.fl s.pcnt.toNat := by
  obtain ⟨hval, hlen, -⟩ := h.completed hs
  exact hlen ▸ h.latched hval

/-- `PCNT` is within the frame of the variant (R31). -/
theorem pcnt_le_of_blockInv {s : State} (h : BlockInv s) :
    s.pcnt.toNat ≤ 25 ∧ (s.variant = .sync → s.pcnt.toNat ≤ 14) := by
  by_cases hs : s.pst = .complete
  · exact frameOk_le h.fits (frameOk_of_blockInv h hs)
  · obtain ⟨hlt, hsync⟩ := partOk_lt h.fits (partOk_of_blockInv h hs)
    exact ⟨hlt.le, fun hv => (hsync hv).le⟩

/-- A `PUSH` stores its byte inside the buffer (R31). -/
theorem restart_pcnt_lt {s : State} (h : BlockInv s) : (restart s).pcnt.toNat < 25 :=
  (partOk_lt (blockInv_restart h).fits (partOk_of_blockInv (blockInv_restart h) (restart_pst_ne s))).1

/-- A whole frame in the buffer can be latched (R29, R148). -/
theorem blockInv_latchFrame {s : State} (hf : s.params.Fits) (h : FrameOk s.params s.variant s.pbuf s.pcnt.toNat) :
    BlockInv (latchFrame s) := by
  have hcopy : ∀ i, i < s.pcnt.toNat → byteAt (latchFrame s).fl i = byteAt s.pbuf i :=
    fun i hi => (byteAt_copyFront _ _ _ _).trans (if_pos hi)
  exact
    { fits := hf
      building := fun hc => absurd rfl hc
      completed := fun _ => ⟨rfl, rfl, fun i hi => (hcopy i hi).symm⟩
      latched := fun _ => frameOk_congr h hcopy
      empty := fun he => by cases he }

/-- The store and each of the three results of the check keep the invariant (R28, R29, R143, R148). -/
theorem pushByte_keeps_blockInv {s t : State} {b : Byte} (h : BlockInv s) (hs : s.pst ≠ .complete)
    (hb : pushByte b s = .next t) : BlockInv t := by
  obtain ⟨hp, k, hk, hr⟩ := pushByte_next hb
  have hpart := partOk_of_blockInv h hs
  have hn := storeByte_pcnt_toNat s s.pcnt.toNat b hp
  obtain ⟨-, rfl⟩ | ⟨rfl, rfl⟩ | ⟨rfl, rfl⟩ := pushResult_next hr
  · apply blockInv_respond
    exact blockInv_of_building h rfl rfl rfl rfl rfl (stage_of_le_one _ (by simp)).symm
      (partOk_of_le_one _ _ _ (by simp))
  · apply blockInv_respond
    refine blockInv_latchFrame (s := storeByte s _ b) h.fits ?_
    rw [hn]
    exact frameOk_of_done h.fits hpart hk
  · apply blockInv_respond
    refine blockInv_of_building (t := advanceStage _) h rfl rfl rfl rfl rfl rfl ?_
    rw [advanceStage_pcnt, hn]
    exact partOk_of_pass h.fits hpart hk

/-- `FRAME_READ`, `ENC_A` and `ENC_S`, refused or carried out, write no state (R124, R161, R204). -/
theorem respond_of_ite_answer {p : Prop} [Decidable p] {s t : State} {r r' : Response}
    (h : (if p then answer s r else answer s r') = .next t) : ∃ q, t = respond s q := by
  split at h
  · exact ⟨r, (answer_eq_next.1 h).symm⟩
  · exact ⟨r', (answer_eq_next.1 h).symm⟩

/-- Everything a command that answers a next state can do: the part of the block it may touch, and its response. -/
theorem exec_next_cases {i : Instr} {s t : State} (h : exec i s = .next t) :
    (∃ b, i = .push b ∧ pushByte b (restart s) = .next t) ∨
    (∃ r, i = .reset ∧ t = respond (resetBlock s) r) ∨
    (∃ r, i = .parserClear ∧ t = respond (clearParser s) r) ∨
    (∃ v r, (i = .crcClear ∨ (∃ b, i = .crcByte b) ∨ ∃ w, i = .crcWord w) ∧ t = respond (setCrc s v) r) ∨
    ∃ r, t = respond s r := by
  cases i with
  | push b => exact .inl ⟨b, rfl, h⟩
  | reset => exact .inr (.inl ⟨_, rfl, (answer_eq_next.1 h).symm⟩)
  | parserClear => exact .inr (.inr (.inl ⟨_, rfl, (answer_eq_next.1 h).symm⟩))
  | crcClear => exact .inr (.inr (.inr (.inl ⟨_, _, .inl rfl, (answer_eq_next.1 h).symm⟩)))
  | crcByte b => exact .inr (.inr (.inr (.inl ⟨_, _, .inr (.inl ⟨b, rfl⟩), (answer_eq_next.1 h).symm⟩)))
  | crcWord w => exact .inr (.inr (.inr (.inl ⟨_, _, .inr (.inr ⟨w, rfl⟩), (answer_eq_next.1 h).symm⟩)))
  | frameRead => exact .inr (.inr (.inr (.inr (respond_of_ite_answer h))))
  | encA len b addr data => exact .inr (.inr (.inr (.inr (respond_of_ite_answer h))))
  | encS len b addr sub cmd pend data => exact .inr (.inr (.inr (.inr (respond_of_ite_answer h))))
  | nop => exact .inr (.inr (.inr (.inr ⟨_, (answer_eq_next.1 h).symm⟩)))
  | reservedAB low rest => exact .inr (.inr (.inr (.inr ⟨_, (answer_eq_next.1 h).symm⟩)))
  | reservedCF low rest => exact .inr (.inr (.inr (.inr ⟨_, (answer_eq_next.1 h).symm⟩)))

/-- Every command keeps the invariant. -/
theorem exec_keeps_blockInv {i : Instr} {s t : State} (h : BlockInv s) (he : exec i s = .next t) : BlockInv t := by
  obtain ⟨b, -, hb⟩ | ⟨r, -, rfl⟩ | ⟨r, -, rfl⟩ | ⟨v, r, -, rfl⟩ | ⟨r, rfl⟩ := exec_next_cases he
  · exact pushByte_keeps_blockInv (blockInv_restart h) (restart_pst_ne s) hb
  · exact blockInv_respond (blockInv_resetBlock h) r
  · exact blockInv_respond (blockInv_clearParser h) r
  · exact blockInv_respond (blockInv_setCrc h v) r
  · exact blockInv_respond h r

/-- Every step keeps the invariant, one with no command issued and one on a word that spells none included. -/
theorem step_keeps_blockInv {s t : State} (h : BlockInv s) (hs : step s = .next t) : BlockInv t := by
  cases hc : s.cmds with
  | nil =>
    rw [step_idle hc] at hs
    cases hs
    exact h
  | cons c rest =>
    cases hd : decode c with
    | ok i =>
      rw [step_decoded hc hd] at hs
      exact exec_keeps_blockInv (blockInv_withCmds h rest) hs
    | error e =>
      rw [step_rejected hc hd] at hs
      exact answer_eq_next.1 hs ▸ blockInv_respond (blockInv_withCmds h rest) _

/-! ### The obligations -/

/-- Settles O45: each check that passes keeps the part held correct, and the last makes it a frame. -/
theorem stepKeepsInvariant : Obligations.StepKeepsInvariant :=
  fun _ _ h hs => step_keeps_blockInv h hs

/-- Settles O46: the empty parser and the empty latch meet the invariant in every build that fits. -/
theorem invariantHoldsAtReset : Obligations.InvariantHoldsAtReset :=
  ⟨fun _ v hf => blockInv_powerOn hf v, blockInv_powerOn standard_fits _⟩

/-- Settles O47, from the bounds the invariant gives after the step and after a restart. -/
theorem pcntStaysInBounds : Obligations.PcntStaysInBounds := by
  intro s t h hs
  obtain ⟨hle, hsync⟩ := pcnt_le_of_blockInv (step_keeps_blockInv h hs)
  exact ⟨fun _ => hle, hsync, Nat.le_of_lt_succ (restart_pcnt_lt h)⟩

/-- Settles O48: in `COMPLETE` the invariant makes the latch a whole frame of `PCNT` bytes. -/
theorem completeMeansLatched : Obligations.CompleteMeansLatched := by
  intro s t h hs hc
  have ht := step_keeps_blockInv h hs
  have hframe := frameOk_of_blockInv ht hc
  obtain ⟨hval, hlen, hbytes⟩ := ht.completed hc
  refine ⟨fun hv => ?_, fun hv => ?_, hbytes, hlen, hval⟩
  · rw [hv] at hframe
    exact hframe.total
  · rw [hv] at hframe
    exact hframe.total

end Sys2Proof.Proofs
end

section
/-! PROOFS. What each command writes (10_state.md R23 to R35): the frame of every command, and that the parser, the
encoder and `FRAME_READ` run independently of `CRC` (R24, 70_reset_and_hazards.md R229). -/
namespace Sys2Proof.Proofs
open Sys2Proof.Machine

/-! ### The frame of the commands (R24, R27, R30) -/

/-- Past a restart a `PUSH` stores at 0 or at `PCNT` (R141, R142). -/
theorem restart_pcnt_cases (s : State) : (restart s).pcnt = 0 ∨ (restart s).pcnt = s.pcnt := by
  by_cases hs : s.pst = .complete
  · exact .inl (by simp [restart_complete hs])
  · exact .inr (by rw [restart_building hs])

/-- Past a restart a `PUSH` writes the parser, and the latch when it completes a frame. -/
theorem pushByte_frame {s t : State} {b : Byte} (h : pushByte b s = .next t) :
    t.params = s.params ∧ t.variant = s.variant ∧ t.crc = s.crc ∧ t.cmds = s.cmds ∧
    (∀ i, i ≠ 0 → i ≠ s.pcnt.toNat → byteAt t.pbuf i = byteAt s.pbuf i) ∧
    (t.pst ≠ .complete → t.flValid = s.flValid ∧ t.flLen = s.flLen ∧ t.fl = s.fl) := by
  obtain ⟨-, k, -, hr⟩ := pushByte_next h
  have hstore : ∀ i, i ≠ s.pcnt.toNat → byteAt (setByte s.pbuf s.pcnt.toNat b) i = byteAt s.pbuf i :=
    fun i hi => byteAt_setByte_ne _ _ _ _ hi
  obtain ⟨-, rfl⟩ | ⟨-, rfl⟩ | ⟨-, rfl⟩ := pushResult_next hr
  · exact ⟨rfl, rfl, rfl, rfl, fun i h0 hi => (byteAt_setByte_ne _ _ _ _ h0).trans (hstore i hi),
      fun _ => ⟨rfl, rfl, rfl⟩⟩
  · exact ⟨rfl, rfl, rfl, rfl, fun i _ hi => hstore i hi, fun hc => absurd rfl hc⟩
  · exact ⟨rfl, rfl, rfl, rfl, fun i _ hi => hstore i hi, fun _ => ⟨rfl, rfl, rfl⟩⟩

/-- Settles O39: the restart touches neither the buffer nor the latch, and the rest is the frame of a stored byte. -/
theorem pushLeavesTheRest : Obligations.PushLeavesTheRest := by
  intro s t b h
  have hframe := pushByte_frame (s := restart s) h
  simp only [restart_params, restart_variant, restart_crc, restart_cmds, restart_pbuf, restart_flValid, restart_flLen,
    restart_fl] at hframe
  obtain ⟨hps, hv, hcrc, hcmds, hpbuf, hlatch⟩ := hframe
  refine ⟨hps, hv, hcrc, hcmds, fun i h0 hi => hpbuf i h0 ?_, hlatch⟩
  obtain hz | hz := restart_pcnt_cases s
  · simpa [hz] using h0
  · rwa [hz]

/-- Settles O51, by what each kind of command can write. -/
theorem onlyNamedCommandsWrite : Obligations.OnlyNamedCommandsWrite := by
  intro s t i h
  obtain ⟨b, rfl, -⟩ | ⟨r, rfl, rfl⟩ | ⟨r, rfl, rfl⟩ | ⟨v, r, hi, rfl⟩ | ⟨r, rfl⟩ := exec_next_cases h
  case inl =>
    obtain ⟨hps, hv, hcrc, -, -, hlatch⟩ := pushLeavesTheRest s t b h
    refine ⟨hps, hv, fun hc => absurd hcrc hc, fun _ => .inr (.inr ⟨b, rfl⟩), fun _ => ⟨b, rfl⟩, fun hw => ?_⟩
    refine .inr ⟨⟨b, rfl⟩, ?_⟩
    by_contra hc
    obtain ⟨hval, hlen, hfl⟩ := hlatch hc
    simp [hval, hlen, hfl] at hw
  case inr.inl => simp
  case inr.inr.inl => simp
  case inr.inr.inr.inl =>
    obtain rfl | ⟨b, rfl⟩ | ⟨w, rfl⟩ := hi <;> simp
  case inr.inr.inr.inr => simp

/-! ### Independence of `CRC` (R229) -/

/-- An outcome with `f` applied to the next state. -/
def mapNext (f : State → State) : Host.Outcome State Fault Refusal → Host.Outcome State Fault Refusal
  | .next t => .next (f t)
  | .fault e => .fault e
  | .refused r => .refused r

/-- A run with another value in `CRC` ends as the run does, with that other value. -/
def CrcBlind (f : State → Host.Outcome State Fault Refusal) : Prop :=
  ∀ s w, f (setCrc s w) = mapNext (setCrc · w) (f s)

theorem pushResult_crcBlind (b : Byte) (k : Check) : CrcBlind (pushResult · b k) := by
  intro s w
  cases k <;> rfl

theorem restart_setCrc (s : State) (w : Word) : restart (setCrc s w) = setCrc (restart s) w := by
  by_cases hs : s.pst = .complete
  · rw [restart_complete hs, restart_complete (s := setCrc s w) hs]
    rfl
  · rw [restart_building hs, restart_building (s := setCrc s w) hs]

theorem pushByte_noRule {s : State} {b : Byte} (hp : s.pcnt.toNat < 25)
    (hk : check s.params s.variant (setByte s.pbuf s.pcnt.toNat b) s.pcnt.toNat b = none) :
    pushByte b s = .fault .noRuleForPosition := by
  simp [pushByte, hp, hk]

theorem pushByte_bufferEnd {s : State} (b : Byte) (hp : ¬s.pcnt.toNat < 25) : pushByte b s = .fault .bufferEnd :=
  if_neg hp

theorem pushByte_crcBlind (b : Byte) : CrcBlind (pushByte b) := by
  intro s w
  by_cases hp : s.pcnt.toNat < 25
  · cases hk : check s.params s.variant (setByte s.pbuf s.pcnt.toNat b) s.pcnt.toNat b with
    | some k =>
      rw [pushByte_checked hp hk, pushByte_checked (s := setCrc s w) hp hk]
      exact pushResult_crcBlind b k (storeByte s s.pcnt.toNat b) w
    | none =>
      rw [pushByte_noRule hp hk, pushByte_noRule (s := setCrc s w) hp hk]
      rfl
  · rw [pushByte_bufferEnd b hp, pushByte_bufferEnd (s := setCrc s w) b hp]
    rfl

theorem exec_push_crcBlind (b : Byte) : CrcBlind (exec (.push b)) := fun s w =>
  (congrArg (pushByte b) (restart_setCrc s w)).trans (pushByte_crcBlind b (restart s) w)

/-- `FRAME_READ`, `ENC_A` and `ENC_S`: neither the condition nor the two responses depend on `CRC`. -/
theorem mapNext_ite_answer (p : Prop) [Decidable p] (s : State) (w : Word) (r r' : Response) :
    (if p then answer (setCrc s w) r else answer (setCrc s w) r') =
      mapNext (setCrc · w) (if p then answer s r else answer s r') := by
  split <;> rfl

/-- Settles O52: each of the five commands runs independently of `CRC`, a faulting `PUSH` included. -/
theorem crcRegisterIsInvisibleToTheOtherUnits : Obligations.CrcRegisterIsInvisibleToTheOtherUnits := by
  intro s w i hi
  have hblind : exec i (setCrc s w) = mapNext (setCrc · w) (exec i s) := by
    obtain ⟨b, rfl⟩ | rfl | rfl | ⟨len, b, addr, data, rfl⟩ | ⟨len, b, addr, sub, cmd, pend, data, rfl⟩ := hi
    · exact exec_push_crcBlind b s w
    · rfl
    · exact mapNext_ite_answer _ s w _ _
    · exact mapNext_ite_answer _ s w _ _
    · exact mapNext_ite_answer _ s w _ _
  cases hrun : exec i s <;> rw [hrun] at hblind <;> exact hblind

end Sys2Proof.Proofs
end

section
/-! PROOFS. `STAT`, power-on and `RESET` (10_state.md R32, R35, 43_control.md R181, 70_reset_and_hazards.md R220). -/
namespace Sys2Proof.Proofs
open Sys2Proof.Machine

/-- `STAT` as a number, each field at its place (R32). -/
theorem toNat_statWord (s : State) : (statWord s).toNat =
    (variantCode s.variant).toNat * 2 ^ 14 + s.flLen.toNat * 2 ^ 9 + s.flValid.toNat * 2 ^ 8 +
      (parseCode s.pst).toNat * 2 ^ 5 + s.pcnt.toNat := by
  have h : (statWord s).toNat = ((0 : BitVec 1) ++ variantCode s.variant ++ s.flLen ++ BitVec.ofBool s.flValid ++
    parseCode s.pst ++ s.pcnt).toNat := rfl
  have h0 : (0 : BitVec 1).toNat = 0 := rfl
  rw [h]
  simp only [toNat_append_add, BitVec.toNat_ofBool, h0]
  ring

/-- A bit of a word is its digit in the number. -/
theorem getLsbD_of_toNat {n i : Nat} {x : BitVec n} {c : Bool} (h : x.toNat / 2 ^ i % 2 = c.toNat) :
    x.getLsbD i = c := by
  rw [BitVec.getLsbD, Nat.testBit_eq_decide_div_mod_eq, h]
  cases c <;> rfl

theorem toNat_variantCode (v : Variant) : (variantCode v).toNat = (decide (v = .sync)).toNat := by
  cases v <;> rfl

/-- Settles O11: the fields of the number `STAT` is. -/
theorem statWordLayout : Obligations.StatWordLayout := by
  intro s
  have hstat := toNat_statWord s
  have hpcnt := s.pcnt.isLt
  have hpst := (parseCode s.pst).isLt
  have hlen := s.flLen.isLt
  have hval := s.flValid.toNat_lt
  have hdec := (decide (s.variant = .sync)).toNat_lt
  rw [toNat_variantCode] at hstat
  refine ⟨BitVec.eq_of_toNat_eq ?_, BitVec.eq_of_toNat_eq ?_, getLsbD_of_toNat ?_, BitVec.eq_of_toNat_eq ?_,
    getLsbD_of_toNat ?_, getLsbD_of_toNat ?_⟩
  all_goals
    simp only [BitVec.extractLsb'_toNat, Nat.shiftRight_eq_div_pow, hstat, Bool.toNat_false]
    omega

/-- Settles O13: `resetBlock` field by field, and the answer of `RESET`. -/
theorem resetWritesResetValues : Obligations.ResetWritesResetValues :=
  fun s => ⟨_, rfl, resetBlock_crc s, resetBlock_pst s, resetBlock_pcnt s, resetBlock_flValid s, resetBlock_flLen s,
    resetBlock_params s, resetBlock_variant s, responded_of_answer (resetBlock_cmds s) (resetBlock_resps s) rfl⟩

/-- After power-on `STAT` holds the variant alone (R32, R220). -/
theorem toNat_statWord_powerOn (ps : Params) (v : Variant) :
    (statWord (State.powerOn ps v)).toNat = (variantCode v).toNat * 2 ^ 14 := by
  simp [toNat_statWord, parseCode]

/-- Settles O15: the power-on state field by field, and `STAT` of its zero fields. -/
theorem powerOnState : Obligations.PowerOnState :=
  fun ps v => ⟨powerOn_params ps v, powerOn_variant ps v, powerOn_crc ps v, powerOn_pst ps v, powerOn_pcnt ps v,
    powerOn_flValid ps v, powerOn_flLen ps v, BitVec.eq_of_toNat_eq (toNat_statWord_powerOn ps .async),
    BitVec.eq_of_toNat_eq (toNat_statWord_powerOn ps .sync), powerOn_crc Params.standard Config.variant⟩

end Sys2Proof.Proofs
end

section
/-! PROOFS. Progress of the parser (10_state.md R31, 70_reset_and_hazards.md R226): a `PUSH` either ends a frame or
moves `PCNT` one further, and `PCNT` stays below 25 while a frame is being built. -/
namespace Sys2Proof.Proofs
open Sys2Proof.Machine

/-- A response that ends the frame under construction (R226). -/
def EndsFrame (r : Response) : Prop := r.status = .complete ∨ r.status = .framingError

/-- A `PUSH` past its restart answers, and ends the frame or holds one more byte of it. -/
theorem pushByte_progress {s : State} (h : BlockInv s) (hs : s.pst ≠ .complete) (b : Byte) :
    ∃ t r, pushByte b s = .next t ∧ t.resps = s.resps ++ [r] ∧
      (EndsFrame r ∨ (t.pst ≠ .complete ∧ t.pcnt.toNat = s.pcnt.toNat + 1)) := by
  have hpart := partOk_of_blockInv h hs
  have hp := (partOk_lt h.fits hpart).1
  obtain ⟨k, hk⟩ := check_answers b hpart
  rw [pushByte_checked hp hk]
  cases k with
  | fail => exact ⟨_, _, rfl, rfl, .inl (.inr rfl)⟩
  | done => exact ⟨_, _, rfl, rfl, .inl (.inl rfl)⟩
  | pass => exact ⟨_, _, rfl, rfl, .inr ⟨stage_ne_complete _ _, storeByte_pcnt_toNat s _ b hp⟩⟩

/-- `PUSH` commands in a row run one after the other (R62, R91). -/
theorem execAll_pushS_cons {s t : State} {b : Byte} (h : exec (.push b) s = .next t) (bs : List Byte) :
    execAll (pushS (b :: bs)) s = execAll (pushS bs) t := by
  simp only [pushS, List.map_cons, execAll, h]

/-- `PUSH` commands in a row all answer, and among the responses one ends a frame or every byte went to one frame. -/
theorem pushes_progress (bs : List Byte) {s : State} (h : BlockInv s) :
    ∃ t rs, execAll (pushS bs) s = .next t ∧ BlockInv t ∧ t.resps = s.resps ++ rs ∧
      ((∃ r ∈ rs, EndsFrame r) ∨ bs.length + (restart s).pcnt.toNat ≤ (restart t).pcnt.toNat) := by
  induction bs generalizing s with
  | nil => exact ⟨s, [], rfl, h, by simp, .inr (by simp)⟩
  | cons b bs ih =>
    obtain ⟨u, r, hu, hresp, hprog⟩ := pushByte_progress (blockInv_restart h) (restart_pst_ne s) b
    have hinv := pushByte_keeps_blockInv (blockInv_restart h) (restart_pst_ne s) hu
    obtain ⟨t, rs, ht, htinv, hresps, hrest⟩ := ih hinv
    refine ⟨t, r :: rs, (execAll_pushS_cons hu bs).trans ht, htinv, by simp [hresps, hresp], ?_⟩
    obtain hend | ⟨hbuild, hcnt⟩ := hprog
    · exact .inl ⟨r, by simp, hend⟩
    · obtain ⟨r', hmem, hend⟩ | hle := hrest
      · exact .inl ⟨r', by simp [hmem], hend⟩
      · rw [restart_building hbuild] at hle
        exact .inr (by rw [List.length_cons]; omega)

/-- Settles O59: were no frame ended, `PCNT` would be at least 25 while a frame is being built. -/
theorem frameEndsWithinTwentyFiveBytes : Obligations.FrameEndsWithinTwentyFiveBytes := by
  intro s bs h hlen
  obtain ⟨t, rs, ht, htinv, hresps, ⟨r, hmem, hend⟩ | hle⟩ := pushes_progress bs h
  · exact ⟨t, ht, r, by simpa [newResponses, hresps] using hmem, hend⟩
  · have := restart_pcnt_lt htinv
    omega

end Sys2Proof.Proofs
end

section
/-! PROOFS. The bytes the spec leaves unspecified (10_state.md R27, R30, 93 I10): a run from a state with other bytes in
them keeps step with the run from the state itself. -/
namespace Sys2Proof.Proofs
open Sys2Proof.Machine

/-! ### States that differ in unspecified bytes -/

/-- The state with other bytes in `PBUF` and `FL`. -/
def withBytes (s : State) (pb f : Buf) : State := { s with pbuf := pb, fl := f }

/-- `pb` and `f` differ from `PBUF` and `FL` only in bytes that no rule reads (R27, R30). -/
structure OnlyHiddenDiffer (s : State) (pb f : Buf) : Prop where
  pbuf : ∀ i, i < s.pcnt.toNat → byteAt pb i = byteAt s.pbuf i
  fl : s.flValid = true → ∀ i, i < s.flLen.toNat → byteAt f i = byteAt s.fl i

theorem frontBytes_eq_iff {x y : Buf} {n : Nat} :
    frontBytes x n = frontBytes y n ↔ ∀ i, i < n → byteAt x i = byteAt y i := by
  constructor
  · intro h i hi
    simpa [byteAt_frontBytes, hi] using congrArg (byteAt · i) h
  · intro h
    apply buf_ext
    intro i _
    rw [byteAt_frontBytes, byteAt_frontBytes]
    exact ite_congr rfl (h i) fun _ => rfl

/-- Masking replaces bytes of `PBUF` and `FL` alone. -/
theorem observable_eq_withBytes (s : State) : observable s = withBytes s (frontBytes s.pbuf s.pcnt.toNat)
    (if s.flValid then frontBytes s.fl s.flLen.toNat else Buf.zero) := rfl

theorem observable_withBytes {s : State} {pb f : Buf} (h : OnlyHiddenDiffer s pb f) :
    observable (withBytes s pb f) = observable s := by
  rw [observable_eq_withBytes, observable_eq_withBytes]
  exact congrArg₂ (withBytes s) (frontBytes_eq_iff.2 h.pbuf)
    (ite_congr rfl (fun hv => frontBytes_eq_iff.2 (h.fl hv)) fun _ => rfl)

/-- A state that looks the same differs in unspecified bytes alone. -/
theorem eq_withBytes_of_observable_eq {s s' : State} (h : observable s' = observable s) :
    s' = withBytes s s'.pbuf s'.fl ∧ OnlyHiddenDiffer s s'.pbuf s'.fl := by
  obtain ⟨ps, v, crc, pst, pcnt, pbuf, val, len, fl, cmds, resps⟩ := s
  obtain ⟨ps', v', crc', pst', pcnt', pbuf', val', len', fl', cmds', resps'⟩ := s'
  simp only [observable, State.mk.injEq] at h
  obtain ⟨rfl, rfl, rfl, rfl, rfl, hpbuf, rfl, rfl, hfl, rfl, rfl⟩ := h
  refine ⟨rfl, frontBytes_eq_iff.1 hpbuf, ?_⟩
  rintro rfl
  exact frontBytes_eq_iff.1 hfl

/-! ### The two runs of each operation -/

/-- The fields of a whole frame are read from the bytes of that frame (R155 to R160). -/
theorem frameFields_congr {ps : Params} {v : Variant} {x y : Buf} {n : Nat} (h : FrameOk ps v x n)
    (hxy : ∀ i, i < n → byteAt y i = byteAt x i) : frameFields ps v y = frameFields ps v x := by
  cases v with
  | sync =>
    obtain ⟨rfl, -⟩ := h
    rw [Config.syncFrameLen] at hxy
    have hpay : (fun k : Fin 8 => byteAt y (4 + k.val)) = fun k : Fin 8 => byteAt x (4 + k.val) :=
      funext fun k => hxy _ (by omega)
    have hw0 : wordAt y 0 = wordAt x 0 := wordAt_congr (hxy 0 (by omega)) (hxy 1 (by omega))
    have hw1 : wordAt y 1 = wordAt x 1 := wordAt_congr (hxy 2 (by omega)) (hxy 3 (by omega))
    have hw6 : wordAt y 6 = wordAt x 6 := wordAt_congr (hxy 12 (by omega)) (hxy 13 (by omega))
    simp only [frameFields, syncFields]
    rw [hpay, hw0, hw1, hw6]
  | async =>
    have ht := h.total
    rw [Config.headerLen] at ht
    have hd : declaredLen y = declaredLen x := declaredLen_congr (hxy 11 (by omega)) (hxy 12 (by omega))
    have hpay : ∀ k : Fin 8, (if k.val < declaredLen x then byteAt y (13 + k.val) else 0) =
        if k.val < declaredLen x then byteAt x (13 + k.val) else 0 :=
      fun k => ite_congr rfl (fun hk => hxy _ (by omega)) fun _ => rfl
    simp only [frameFields, asyncFields, hd, hpay, hxy 0 (by omega), hxy 3 (by omega), hxy 5 (by omega),
      hxy 6 (by omega), hxy 7 (by omega), hxy 8 (by omega)]

/-- A response that does not depend on the unspecified bytes leaves the two runs with the same difference. -/
theorem answer_withBytes {s t : State} {r : Response} {pb f : Buf} (hd : OnlyHiddenDiffer s pb f)
    (h : answer s r = .next t) :
    ∃ pb' f', answer (withBytes s pb f) r = .next (withBytes t pb' f') ∧ OnlyHiddenDiffer t pb' f' := by
  obtain rfl := answer_eq_next.1 h
  exact ⟨pb, f, rfl, hd.pbuf, hd.fl⟩

/-- The answer of a command that checks its operands first (R76). -/
theorem ite_answer_withBytes {p : Prop} [Decidable p] {s t : State} {r r' : Response} {pb f : Buf}
    (hd : OnlyHiddenDiffer s pb f) (h : (if p then answer s r else answer s r') = .next t) :
    ∃ pb' f', (if p then answer (withBytes s pb f) r else answer (withBytes s pb f) r') = .next (withBytes t pb' f') ∧
      OnlyHiddenDiffer t pb' f' := by
  split at h
  · rw [if_pos ‹p›]
    exact answer_withBytes hd h
  · rw [if_neg ‹¬p›]
    exact answer_withBytes hd h

/-- The latched frame in a response and its fields are the same, being a whole valid frame. -/
theorem answerLatched_withBytes {s t : State} {st : Status} {pb f : Buf} (hd : OnlyHiddenDiffer s pb f)
    (hv : s.flValid = true) (hframe : FrameOk s.params s.variant s.fl s.flLen.toNat)
    (h : answerLatched s st = .next t) :
    ∃ pb' f', answerLatched (withBytes s pb f) st = .next (withBytes t pb' f') ∧ OnlyHiddenDiffer t pb' f' := by
  have hframe' : frontBytes f s.flLen.toNat = frontBytes s.fl s.flLen.toNat := frontBytes_eq_iff.2 (hd.fl hv)
  have hfields := frameFields_congr hframe (hd.fl hv)
  simp only [answerLatched, withBytes, hframe', hfields] at h ⊢
  exact answer_withBytes hd h

theorem clearParser_onlyHiddenDiffer {s : State} {pb f : Buf} (hd : OnlyHiddenDiffer s pb f) :
    OnlyHiddenDiffer (clearParser s) pb f :=
  ⟨by simp, hd.fl⟩

theorem resetBlock_onlyHiddenDiffer (s : State) (pb f : Buf) : OnlyHiddenDiffer (resetBlock s) pb f :=
  ⟨by simp, by simp⟩

theorem restart_withBytes (s : State) (pb f : Buf) : restart (withBytes s pb f) = withBytes (restart s) pb f := by
  by_cases hs : s.pst = .complete
  · rw [restart_complete hs, restart_complete (s := withBytes s pb f) hs]
    rfl
  · rw [restart_building hs, restart_building (s := withBytes s pb f) hs]

theorem restart_onlyHiddenDiffer {s : State} {pb f : Buf} (hd : OnlyHiddenDiffer s pb f) :
    OnlyHiddenDiffer (restart s) pb f := by
  by_cases hs : s.pst = .complete
  · exact restart_complete hs ▸ clearParser_onlyHiddenDiffer hd
  · exact (restart_building hs).symm ▸ hd

theorem setByte_agree {x y : Buf} {p n : Nat} (b : Byte) (hp : p < 25)
    (h : ∀ i, i < n → i ≠ p → byteAt x i = byteAt y i) (i : Nat) (hi : i < n) :
    byteAt (setByte x p b) i = byteAt (setByte y p b) i := by
  rw [byteAt_setByte _ _ _ _ hp, byteAt_setByte _ _ _ _ hp]
  exact ite_congr rfl (fun _ => rfl) fun hip => h i hi hip

/-- The three results of a checked byte: a frame latched is whole, and a retry keeps only the byte just pushed. -/
theorem pushResult_withBytes {s t : State} {b : Byte} {k : Check} {pb f : Buf} (hd : OnlyHiddenDiffer s pb f)
    (hdone : k = .done → FrameOk s.params s.variant s.pbuf s.pcnt.toNat) (h : pushResult s b k = .next t) :
    ∃ pb' f', pushResult (withBytes s pb f) b k = .next (withBytes t pb' f') ∧ OnlyHiddenDiffer t pb' f' := by
  cases k with
  | fail =>
    exact answer_withBytes (s := retryByte s b) (pb := setByte pb 0 b) (f := f)
      ⟨setByte_agree b (by omega) (by simp), hd.fl⟩ h
  | pass => exact answer_withBytes (s := advanceStage s) ⟨hd.pbuf, hd.fl⟩ h
  | done =>
    have hcopy : ∀ x d : Buf, ∀ i, i < s.pcnt.toNat → byteAt (copyFront x d s.pcnt.toNat) i = byteAt x i :=
      fun x d i hi => (byteAt_copyFront _ _ _ _).trans (if_pos hi)
    refine answerLatched_withBytes (s := latchFrame s) (pb := pb) (f := copyFront pb f s.pcnt.toNat)
      ⟨hd.pbuf, fun _ i hi => ?_⟩ rfl (frameOk_congr (hdone rfl) (hcopy _ _)) h
    exact (hcopy _ _ i hi).trans ((hd.pbuf i hi).trans (hcopy _ _ i hi).symm)

/-- A check reads the bytes below `PCNT` and the byte pushed, so both runs of `PUSH` take the same turn (R142). -/
theorem pushByte_withBytes {s t : State} {b : Byte} {pb f : Buf} (hinv : BlockInv s) (hs : s.pst ≠ .complete)
    (hd : OnlyHiddenDiffer s pb f) (h : pushByte b s = .next t) :
    ∃ pb' f', pushByte b (withBytes s pb f) = .next (withBytes t pb' f') ∧ OnlyHiddenDiffer t pb' f' := by
  obtain ⟨hp, k, hk, hr⟩ := pushByte_next h
  have hagree : ∀ i, i < s.pcnt.toNat + 1 →
      byteAt (setByte pb s.pcnt.toNat b) i = byteAt (setByte s.pbuf s.pcnt.toNat b) i :=
    setByte_agree b hp fun i hi hip => hd.pbuf i (by omega)
  have hk' : check s.params s.variant (setByte pb s.pcnt.toNat b) s.pcnt.toNat b = some k :=
    (check_congr fun i hi => hagree i (Nat.lt_succ_of_le hi)).trans hk
  have hcnt := storeByte_pcnt_toNat s s.pcnt.toNat b hp
  rw [pushByte_checked (s := withBytes s pb f) hp hk']
  refine pushResult_withBytes (s := storeByte s s.pcnt.toNat b) (pb := setByte pb s.pcnt.toNat b) (f := f)
    ⟨fun i hi => hagree i (hcnt ▸ hi), hd.fl⟩ ?_ hr
  rintro rfl
  rw [hcnt]
  exact frameOk_of_done hinv.fits (partOk_of_blockInv hinv hs) hk

theorem exec_frameRead_valid {s : State} (h : s.flValid = true) : exec .frameRead s = answerLatched s .ok :=
  if_pos h

theorem exec_frameRead_empty {s : State} (h : s.flValid = false) : exec .frameRead s = answerInvalidState s :=
  if_neg (by simp [h])

/-- Each command from the state with other bytes: the same response, and a next state with other bytes. -/
theorem exec_withBytes {i : Instr} {s t : State} {pb f : Buf} (hinv : BlockInv s) (hd : OnlyHiddenDiffer s pb f)
    (h : exec i s = .next t) :
    ∃ pb' f', exec i (withBytes s pb f) = .next (withBytes t pb' f') ∧ OnlyHiddenDiffer t pb' f' := by
  cases i with
  | push b =>
    have hrun : exec (.push b) (withBytes s pb f) = pushByte b (withBytes (restart s) pb f) :=
      congrArg (pushByte b) (restart_withBytes s pb f)
    rw [hrun]
    exact pushByte_withBytes (blockInv_restart hinv) (restart_pst_ne s) (restart_onlyHiddenDiffer hd) h
  | frameRead =>
    cases hv : s.flValid with
    | true =>
      rw [exec_frameRead_valid (s := withBytes s pb f) hv]
      exact answerLatched_withBytes hd hv (hinv.latched hv) ((exec_frameRead_valid hv).symm.trans h)
    | false =>
      rw [exec_frameRead_empty (s := withBytes s pb f) hv]
      exact answer_withBytes hd ((exec_frameRead_empty hv).symm.trans h)
  | encA len b addr data => exact ite_answer_withBytes hd h
  | encS len b addr sub cmd pend data => exact ite_answer_withBytes hd h
  | nop => exact answer_withBytes hd h
  | reset => exact answer_withBytes (resetBlock_onlyHiddenDiffer s pb f) h
  | parserClear => exact answer_withBytes (clearParser_onlyHiddenDiffer hd) h
  | crcClear => exact answer_withBytes (s := setCrc s _) ⟨hd.pbuf, hd.fl⟩ h
  | crcByte b => exact answer_withBytes (s := setCrc s _) ⟨hd.pbuf, hd.fl⟩ h
  | crcWord w => exact answer_withBytes (s := setCrc s _) ⟨hd.pbuf, hd.fl⟩ h
  | reservedAB low rest => exact answer_withBytes hd h
  | reservedCF low rest => exact answer_withBytes hd h

/-- Settles O53: the second run is the first with other bytes, command by command. -/
theorem unspecifiedBytesAreUnobservable : Obligations.UnspecifiedBytesAreUnobservable := by
  intro s s' t hinv hobs hs
  obtain ⟨heq, hd⟩ := eq_withBytes_of_observable_eq hobs
  rw [heq]
  cases hc : s.cmds with
  | nil =>
    rw [step_idle hc] at hs
    cases hs
    exact ⟨_, step_idle (s := withBytes s s'.pbuf s'.fl) hc, observable_withBytes hd⟩
  | cons c rest =>
    have hd' : OnlyHiddenDiffer { s with cmds := rest } s'.pbuf s'.fl := ⟨hd.pbuf, hd.fl⟩
    cases hdec : decode c with
    | ok i =>
      rw [step_decoded hc hdec] at hs
      rw [step_decoded (s := withBytes s s'.pbuf s'.fl) hc hdec]
      obtain ⟨pb, f, hrun, hdt⟩ := exec_withBytes (blockInv_withCmds hinv rest) hd' hs
      exact ⟨_, hrun, observable_withBytes hdt⟩
    | error e =>
      rw [step_rejected hc hdec] at hs
      rw [step_rejected (s := withBytes s s'.pbuf s'.fl) hc hdec]
      obtain ⟨pb, f, hrun, hdt⟩ := answer_withBytes hd' hs
      exact ⟨_, hrun, observable_withBytes hdt⟩

end Sys2Proof.Proofs
end

section
/-! PROOFS. The assembler forms and the sequences of CRC commands (20_memory.md R55 to R61, 30_encoding.md R90, R91):
the payload bytes of an assembled command, the CRC unit over a sequence of commands, and commands issued twice. -/
namespace Sys2Proof.Proofs
open Sys2Proof.Machine

/-! ### `packData` (R58, R90) -/

/-- The low byte of the packed data is the first byte listed: the others stand above it. -/
theorem payloadByte_packData_cons_zero (d : Byte) (ds : List Byte) : payloadByte (packData (d :: ds)) 0 = d := by
  ext i hi
  simp [payloadByte, packData, hi, show i < 64 by omega]

/-- The bytes above the low one are those of the rest of the list, as far as 64 bits reach. -/
theorem payloadByte_packData_cons_succ (d : Byte) (ds : List Byte) {k : Nat} (hk : k + 1 < 8) :
    payloadByte (packData (d :: ds)) (k + 1) = payloadByte (packData ds) k := by
  ext i hi
  simp [payloadByte, packData, show 8 * (k + 1) + i < 64 by omega, show ¬8 * (k + 1) + i < 8 by omega,
    show 8 * (k + 1) + i - 8 = 8 * k + i by omega, BitVec.getLsbD_of_ge d (8 * (k + 1) + i) (by omega),
    BitVec.getLsbD_eq_getElem (x := packData ds) (i := 8 * k + i) (by omega)]

/-- `D[k]` is byte `k` of the list, and zero past its end, for a list of any length. -/
theorem payloadByte_packData (ds : List Byte) {k : Nat} (hk : k < 8) : payloadByte (packData ds) k = ds.getD k 0 := by
  induction ds generalizing k with
  | nil => simp [payloadByte, packData]
  | cons d ds ih =>
    cases k with
    | zero => exact payloadByte_packData_cons_zero d ds
    | succ k => rw [payloadByte_packData_cons_succ d ds hk, ih (by omega), List.getD_cons_succ]

/-- Settles O7: eight bytes fit `LEN` and `DATA`, and past the end of the list the packed byte is zero. -/
theorem assembledPayloadBytes : Obligations.AssembledPayloadBytes := by
  intro ds hlen node addr
  refine ⟨_, _, rfl, ?_, fun k hk => payloadByte_packData ds (by omega), fun k hk hk8 => ?_⟩
  · rw [BitVec.toNat_ofNat, Nat.mod_eq_of_lt (by omega)]
  · rw [payloadByte_packData ds hk8, List.getD_eq_default _ _ hk]

/-! ### The CRC unit over a sequence of commands (R56, R91, R104) -/

/-- Commands that each feed one item to `CRC` feed the whole sequence, and leave the rest of the block. -/
theorem execAll_map_setCrc {α : Type} {cmd : α → Instr} {feed : Params → Word → α → Word}
    (hcmd : ∀ s a, ∃ r, exec (cmd a) s = .next (respond (setCrc s (feed s.params s.crc a)) r)) (l : List α) (s : State) :
    ∃ t, execAll (l.map cmd) s = .next t ∧ blockOf t = blockOf (setCrc s (l.foldl (feed s.params) s.crc)) := by
  induction l generalizing s with
  | nil => exact ⟨s, rfl, rfl⟩
  | cons a l ih =>
    obtain ⟨r, hr⟩ := hcmd s a
    obtain ⟨t, ht, hblock⟩ := ih (respond (setCrc s (feed s.params s.crc a)) r)
    refine ⟨t, ?_, hblock⟩
    simp only [List.map_cons, execAll, hr, ht]

/-- From a `CRC_CLEAR` the sequence is fed to the initial value (R105). -/
theorem execAll_crcClear_map_setCrc {α : Type} {cmd : α → Instr} {feed : Params → Word → α → Word}
    (hcmd : ∀ s a, ∃ r, exec (cmd a) s = .next (respond (setCrc s (feed s.params s.crc a)) r)) (l : List α) (s : State) :
    ∃ t, execAll (.crcClear :: l.map cmd) s = .next t ∧
      blockOf t = blockOf (setCrc s (l.foldl (feed s.params) s.params.crcInit)) :=
  execAll_map_setCrc hcmd l (respond (setCrc s s.params.crcInit) { blankResponse .ok with crc := s.params.crcInit })

/-- Feeding the wire bytes of the words is feeding the words: high byte first (R55, R102). -/
theorem foldl_step8_wireBytes (poly c : Word) (ws : List Word) :
    (ws.flatMap wireBytes).foldl (step8 poly) c = crcFold poly c ws :=
  List.foldl_flatMap

/-- The final exclusive-or undone (R104). -/
theorem crc16_xor_xorOut (ps : Params) (ws : List Word) :
    crc16 ps ws ^^^ ps.crcXorOut = crcFold ps.crcPoly ps.crcInit ws := by
  rw [crc16, BitVec.xor_assoc, BitVec.xor_self, BitVec.xor_zero]

/-- Settles O22: by words and by bytes the unit holds the fold of R104. -/
theorem crcUnitComputesFrameCheck : Obligations.CrcUnitComputesFrameCheck := by
  intro ws s
  obtain ⟨t, ht, hblock⟩ := execAll_crcClear_map_setCrc (cmd := .crcWord) (feed := fun ps => step16 ps.crcPoly)
    (fun _ _ => ⟨_, rfl⟩) ws s
  obtain ⟨u, hu, hblock'⟩ := execAll_crcClear_map_setCrc (cmd := .crcByte) (feed := fun ps => step8 ps.crcPoly)
    (fun _ _ => ⟨_, rfl⟩) (ws.flatMap wireBytes) s
  rw [foldl_step8_wireBytes] at hblock'
  refine ⟨t, u, ht, ?_, hu, hblock'.trans hblock.symm⟩
  rw [crc16_xor_xorOut]
  exact hblock

/-! ### Commands issued twice (R61) -/

/-- What `RESET` writes depends on the build alone, which neither it nor its response changes. -/
theorem blockOf_resetBlock_twice (s : State) (r : Response) :
    blockOf (resetBlock (respond (resetBlock s) r)) = blockOf (resetBlock s) := rfl

theorem blockOf_clearParser_twice (s : State) (r : Response) :
    blockOf (clearParser (respond (clearParser s) r)) = blockOf (clearParser s) := rfl

theorem blockOf_setCrc_twice (s : State) (v w : Word) (r : Response) :
    blockOf (setCrc (respond (setCrc s v) r) w) = blockOf (setCrc s w) := rfl

/-- Settles O17: the second issue writes what the first wrote. -/
theorem clearingCommandsAreIdempotent : Obligations.ClearingCommandsAreIdempotent := by
  rintro s i (rfl | rfl | rfl)
  · exact ⟨_, _, rfl, rfl, blockOf_resetBlock_twice s _⟩
  · exact ⟨_, _, rfl, rfl, blockOf_clearParser_twice s _⟩
  · exact ⟨_, _, rfl, rfl, blockOf_setCrc_twice s s.params.crcInit s.params.crcInit _⟩

end Sys2Proof.Proofs
end

section
/-! PROOFS. Decoding and encoding (30_encoding.md R70 to R77): a word passes the fixed-bit check exactly when it is the
encoding of the command in its fields, so decoding and encoding undo each other, and the rows of R72 are the words of
the commands they name. -/
namespace Sys2Proof.Proofs
open Sys2Proof.Machine

/-! ### The fixed bits, field by field (R72, R75) -/

/-- A word is given by its fields (R70). -/
theorem cmdWordOf_eq_iff (c : CmdWord) {data : BitVec 64} {pend : BitVec 1} {cmd : BitVec 3} {sub : BitVec 4}
    {addr : BitVec 24} {w : Word} {b : Byte} {len op : BitVec 4} : cmdWordOf data pend cmd sub addr w b len op = c ↔
      data = dataField c ∧ pend = pendField c ∧ cmd = cmdField c ∧ sub = subField c ∧ addr = addrField c ∧
        w = wField c ∧ b = bField c ∧ len = lenField c ∧ op = opField c := by
  conv_lhs => rw [← cmdWordOf_fields c]
  exact cmdWordOf_inj

/-- What a mask leaves of a word is its opcode alone exactly when it leaves nothing of each other field. -/
theorem and_mask_eq_op_iff (c : CmdWord) {mask : CmdWord} {data : BitVec 64} {pend : BitVec 1} {cmd : BitVec 3}
    {sub : BitVec 4} {addr : BitVec 24} {w : Word} {b : Byte} {len op : BitVec 4}
    (hmask : mask = cmdWordOf data pend cmd sub addr w b len op) : c &&& mask = (opField c).setWidth 128 ↔
      dataField c &&& data = 0 ∧ pendField c &&& pend = 0 ∧ cmdField c &&& cmd = 0 ∧ subField c &&& sub = 0 ∧
        addrField c &&& addr = 0 ∧ wField c &&& w = 0 ∧ bField c &&& b = 0 ∧ lenField c &&& len = 0 ∧
        opField c &&& op = opField c := by
  conv_lhs => rw [← cmdWordOf_fields c, hmask, cmdWordOf_and, opField_cmdWordOf, setWidth_op]
  exact cmdWordOf_inj

/-- The mask of the commands with no operand: every other bit is 0. -/
theorem and_bareMask_iff (c : CmdWord) : c &&& 0xFFFFFFFFFFFFFFFFFFFFFFFFFFFFFFFF = (opField c).setWidth 128 ↔
    cmdWordOf 0 0 0 0 0 0 0 0 (opField c) = c := by
  have hmask : (0xFFFFFFFFFFFFFFFFFFFFFFFFFFFFFFFF : CmdWord) = BitVec.allOnes 128 := by decide
  rw [hmask, and_allOnes, setWidth_op, eq_comm]

/-- The mask of `PUSH` and `CRC_BYTE`: every bit but those of `B` is 0. -/
theorem and_byteMask_iff (c : CmdWord) : c &&& 0xFFFFFFFFFFFFFFFFFFFFFFFFFFFF00FF = (opField c).setWidth 128 ↔
    cmdWordOf 0 0 0 0 0 0 (bField c) 0 (opField c) = c := by
  have hmask : (0xFFFFFFFFFFFFFFFFFFFFFFFFFFFF00FF : CmdWord) = cmdWordOf (.allOnes 64) (.allOnes 1) (.allOnes 3)
    (.allOnes 4) (.allOnes 24) (.allOnes 16) 0 (.allOnes 4) (.allOnes 4) := by decide
  rw [and_mask_eq_op_iff c hmask, cmdWordOf_eq_iff]
  simp only [and_allOnes]
  simp [eq_comm]

/-- The mask of `CRC_WORD`: every bit but those of `W` is 0. -/
theorem and_wordMask_iff (c : CmdWord) : c &&& 0xFFFFFFFFFFFFFFFFFFFFFFFF0000FFFF = (opField c).setWidth 128 ↔
    cmdWordOf 0 0 0 0 0 (wField c) 0 0 (opField c) = c := by
  have hmask : (0xFFFFFFFFFFFFFFFFFFFFFFFF0000FFFF : CmdWord) = cmdWordOf (.allOnes 64) (.allOnes 1) (.allOnes 3)
    (.allOnes 4) (.allOnes 24) 0 (.allOnes 8) (.allOnes 4) (.allOnes 4) := by decide
  rw [and_mask_eq_op_iff c hmask, cmdWordOf_eq_iff]
  simp only [and_allOnes]
  simp [eq_comm]

/-- The mask of `ENC_A`: `W`, `SUB`, `CMD` and `PEND` are 0. -/
theorem and_encAMask_iff (c : CmdWord) : c &&& 0x0000000000000000FF000000FFFF000F = (opField c).setWidth 128 ↔
    cmdWordOf (dataField c) 0 0 0 (addrField c) 0 (bField c) (lenField c) (opField c) = c := by
  have hmask : (0x0000000000000000FF000000FFFF000F : CmdWord) = cmdWordOf 0 (.allOnes 1) (.allOnes 3) (.allOnes 4) 0
    (.allOnes 16) 0 0 (.allOnes 4) := by decide
  rw [and_mask_eq_op_iff c hmask, cmdWordOf_eq_iff]
  simp only [and_allOnes]
  simp [eq_comm]

/-- The mask of `ENC_S`: `W` is 0. -/
theorem and_encSMask_iff (c : CmdWord) : c &&& 0x000000000000000000000000FFFF000F = (opField c).setWidth 128 ↔
    cmdWordOf (dataField c) (pendField c) (cmdField c) (subField c) (addrField c) 0 (bField c) (lenField c)
      (opField c) = c := by
  have hmask : (0x000000000000000000000000FFFF000F : CmdWord) = cmdWordOf 0 0 0 0 0 (.allOnes 16) 0 0 (.allOnes 4) := by
    decide
  rw [and_mask_eq_op_iff c hmask, cmdWordOf_eq_iff]
  simp only [and_allOnes]
  simp [eq_comm]

/-! ### The reserved opcodes (R74) -/

theorem toNat_opField (c : CmdWord) : (opField c).toNat = c.toNat % 2 ^ 4 := by
  simp [opField]

theorem toNat_restField (c : CmdWord) : (restField c).toNat = c.toNat / 2 ^ 4 := by
  have := c.isLt
  rw [restField, BitVec.extractLsb'_toNat, Nat.shiftRight_eq_div_pow]
  omega

/-- A word of opcode 0xA or 0xB keeps all its bits in the command. -/
theorem encode_reservedAB_fields {c : CmdWord} (h : (opField c).toNat / 2 = 5) :
    encode (.reservedAB (c.extractLsb' 0 1) (restField c)) = c := by
  apply BitVec.eq_of_toNat_eq
  rw [toNat_opField] at h
  simp only [toNat_encode_reservedAB, toNat_restField, BitVec.extractLsb'_toNat, Nat.shiftRight_zero]
  omega

/-- A word of opcode 0xC to 0xF keeps all its bits in the command. -/
theorem encode_reservedCF_fields {c : CmdWord} (h : (opField c).toNat / 4 = 3) :
    encode (.reservedCF (c.extractLsb' 0 2) (restField c)) = c := by
  apply BitVec.eq_of_toNat_eq
  rw [toNat_opField] at h
  simp only [toNat_encode_reservedCF, toNat_restField, BitVec.extractLsb'_toNat, Nat.shiftRight_zero]
  omega

theorem instrOf_eq_reservedAB {op : BitVec 4} (c : CmdWord) (h : op.toNat / 2 = 5) :
    instrOf op c = .reservedAB (c.extractLsb' 0 1) (restField c) := by
  obtain h | h : op.toNat = 10 ∨ op.toNat = 11 := by omega
  · simp [instrOf, h]
  · simp [instrOf, h]

theorem instrOf_eq_reservedCF {op : BitVec 4} (c : CmdWord) (h : op.toNat / 4 = 3) :
    instrOf op c = .reservedCF (c.extractLsb' 0 2) (restField c) := by
  obtain h | h | h | h : op.toNat = 12 ∨ op.toNat = 13 ∨ op.toNat = 14 ∨ op.toNat = 15 := by omega
  · simp [instrOf, h]
  · simp [instrOf, h]
  · simp [instrOf, h]
  · simp [instrOf, h]

/-- The fields of an encoded reserved command hold that command. -/
theorem instrOf_encode_reservedAB (low : BitVec 1) (rest : BitVec 124) :
    instrOf (opField (encode (.reservedAB low rest))) (encode (.reservedAB low rest)) = .reservedAB low rest := by
  have hc := toNat_encode_reservedAB low rest
  have hlow := low.isLt
  rw [instrOf_eq_reservedAB _ (by rw [toNat_opField, hc]; omega), Instr.reservedAB.injEq]
  constructor
  · apply BitVec.eq_of_toNat_eq
    rw [BitVec.extractLsb'_toNat, Nat.shiftRight_zero, hc]
    omega
  · apply BitVec.eq_of_toNat_eq
    rw [toNat_restField, hc]
    omega

/-- The fields of an encoded reserved command hold that command. -/
theorem instrOf_encode_reservedCF (low : BitVec 2) (rest : BitVec 124) :
    instrOf (opField (encode (.reservedCF low rest))) (encode (.reservedCF low rest)) = .reservedCF low rest := by
  have hc := toNat_encode_reservedCF low rest
  have hlow := low.isLt
  rw [instrOf_eq_reservedCF _ (by rw [toNat_opField, hc]; omega), Instr.reservedCF.injEq]
  constructor
  · apply BitVec.eq_of_toNat_eq
    rw [BitVec.extractLsb'_toNat, Nat.shiftRight_zero, hc]
    omega
  · apply BitVec.eq_of_toNat_eq
    rw [toNat_restField, hc]
    omega

/-! ### The round trip (R70 to R75) -/

theorem opcode_cases : ∀ op : BitVec 4, op = 0 ∨ op = 1 ∨ op = 2 ∨ op = 3 ∨ op = 4 ∨ op = 5 ∨ op = 6 ∨ op = 7 ∨ op = 8 ∨
    op = 9 ∨ op = 10 ∨ op = 11 ∨ op = 12 ∨ op = 13 ∨ op = 14 ∨ op = 15 := by decide

/-- The key fact: the fixed bits of a word are right exactly when it is the encoding of the command in its fields. -/
theorem encode_instrOf_eq_iff (c : CmdWord) : encode (instrOf (opField c) c) = c ↔
    c &&& fixedMask (opField c) = (opField c).setWidth 128 := by
  have bare := and_bareMask_iff c
  have byte := and_byteMask_iff c
  have word := and_wordMask_iff c
  have encA := and_encAMask_iff c
  have encS := and_encSMask_iff c
  have reserved := and_opMask c
  have restAB := encode_reservedAB_fields (c := c)
  have restCF := encode_reservedCF_fields (c := c)
  obtain h | h | h | h | h | h | h | h | h | h | h | h | h | h | h | h := opcode_cases (opField c) <;>
    rw [h] at bare byte word encA encS reserved restAB restCF ⊢
  · exact bare.symm
  · exact bare.symm
  · exact byte.symm
  · exact bare.symm
  · exact bare.symm
  · exact bare.symm
  · exact byte.symm
  · exact word.symm
  · exact encA.symm
  · exact encS.symm
  · exact iff_of_true (restAB rfl) reserved
  · exact iff_of_true (restAB rfl) reserved
  · exact iff_of_true (restCF rfl) reserved
  · exact iff_of_true (restCF rfl) reserved
  · exact iff_of_true (restCF rfl) reserved
  · exact iff_of_true (restCF rfl) reserved

/-- The fields of an encoded command hold that command. -/
theorem instrOf_encode (i : Instr) : instrOf (opField (encode i)) (encode i) = i := by
  cases i with
  | reservedAB low rest => exact instrOf_encode_reservedAB low rest
  | reservedCF low rest => exact instrOf_encode_reservedCF low rest
  | _ => simp [encode, instrOf]

/-- Settles O1: the word of a command has its fixed bits right, being the encoding of the command in its fields. -/
theorem decodeEncodeEveryCommand : Obligations.DecodeEncodeEveryCommand := fun i =>
  decode_eq_ok_iff.2 ⟨(encode_instrOf_eq_iff _).1 (by rw [instrOf_encode]), instrOf_encode i⟩

/-- Settles O2: an accepted word has its fixed bits right, so it is the encoding of the command in its fields. -/
theorem encodeDecodeEveryAcceptedWord : Obligations.EncodeDecodeEveryAcceptedWord := by
  intro c i h
  obtain ⟨hfixed, rfl⟩ := decode_eq_ok_iff.1 h
  exact (encode_instrOf_eq_iff c).2 hfixed

end Sys2Proof.Proofs
end

section
/-! PROOFS. What the decoder reads and refuses (30_encoding.md R72 to R77): the operand fields as numbers, the rows of
the opcode table as the words of their commands, and rejection as the absence of a row. -/
namespace Sys2Proof.Proofs
open Sys2Proof.Machine

/-! ### Operand fields (R73) -/

/-- A field of a word is the number in its bits. -/
theorem toNat_extractLsb'_eq {n : Nat} (x : BitVec n) (start len : Nat) :
    (x.extractLsb' start len).toNat = x.toNat / 2 ^ start % 2 ^ len := by
  rw [BitVec.extractLsb'_toNat, Nat.shiftRight_eq_div_pow]

/-- A payload byte of `DATA` is a field of the command word. -/
theorem payloadByte_dataField (c : CmdWord) {k : Nat} (hk : k < 8) :
    payloadByte (dataField c) k = c.extractLsb' (64 + 8 * k) 8 := by
  ext i hi
  simp [payloadByte, dataField, show 8 * k + i < 64 by omega, Nat.add_assoc]

/-- Settles O3: each field by arithmetic; an accepted word is the encoding of its command (O2), whose fields are the
command's operands. -/
theorem operandFieldsTakenAsTheyStand : Obligations.OperandFieldsTakenAsTheyStand := by
  intro c
  have round := encodeDecodeEveryAcceptedWord c
  refine ⟨toNat_extractLsb'_eq c 4 4, toNat_extractLsb'_eq c 8 8, toNat_extractLsb'_eq c 16 16,
    toNat_extractLsb'_eq c 32 24, toNat_extractLsb'_eq c 56 4, toNat_extractLsb'_eq c 60 3, toNat_extractLsb'_eq c 63 1,
    fun k hk => ?_, fun b h => ?_, fun b h => ?_, fun w h => ?_, fun len b addr data h => ?_,
    fun len b addr sub cmd pend data h => ?_⟩
  · rw [payloadByte_dataField c hk, toNat_extractLsb'_eq]
  · simp [← round _ h, encode]
  · simp [← round _ h, encode]
  · simp [← round _ h, encode]
  · simp [← round _ h, encode]
  · simp [← round _ h, encode]

/-! ### Rows (R72, R74) -/

/-- The word of every command matches the row it belongs to. -/
theorem encodesInRow (i : Instr) : ∃ r ∈ opRows, r.mnemonic = i.mnemonic ∧ r.hits (encode i) = true := by
  cases i with
  | nop => exact Laws.EncodesInRow.nop
  | reset => exact Laws.EncodesInRow.reset
  | push b => exact Laws.EncodesInRow.push b
  | parserClear => exact Laws.EncodesInRow.parserClear
  | frameRead => exact Laws.EncodesInRow.frameRead
  | crcClear => exact Laws.EncodesInRow.crcClear
  | crcByte b => exact Laws.EncodesInRow.crcByte b
  | crcWord w => exact Laws.EncodesInRow.crcWord w
  | encA len b addr data => exact Laws.EncodesInRow.encA len b addr data
  | encS len b addr sub cmd pend data => exact Laws.EncodesInRow.encS len b addr sub cmd pend data
  | reservedAB low rest => exact Laws.EncodesInRow.reservedAB low rest
  | reservedCF low rest => exact Laws.EncodesInRow.reservedCF low rest

/-- An accepted word matches the row of the command it gives. -/
theorem hits_of_decode_eq_ok {c : CmdWord} {i : Instr} (h : decode c = .ok i) :
    ∃ r ∈ opRows, r.mnemonic = i.mnemonic ∧ r.hits c = true := by
  have hrow := encodesInRow i
  rwa [encodeDecodeEveryAcceptedWord c i h] at hrow

/-- No two rows have one mnemonic. -/
theorem eq_of_mnemonic_eq : ∀ r ∈ opRows, ∀ r' ∈ opRows, r.mnemonic = r'.mnemonic → r = r' := by decide

/-- The mnemonic of a decoded command depends on the opcode alone. -/
theorem mnemonic_instrOf (op : BitVec 4) (c : CmdWord) : (instrOf op c).mnemonic = (instrOf op 0).mnemonic := by
  obtain rfl | rfl | rfl | rfl | rfl | rfl | rfl | rfl | rfl | rfl | rfl | rfl | rfl | rfl | rfl | rfl :=
    opcode_cases op <;> rfl

/-- A word of a row has an opcode that the row admits. -/
theorem opField_of_hits {r : OpRow} {c : CmdWord} (h : r.hits c = true) :
    opField c &&& opField r.mask = opField r.value := by
  rw [← beq_iff_eq.1 h, opField, opField, opField, BitVec.extractLsb'_and]

/-- The rows against the decoder, opcode by opcode: the row's commands are those of the opcodes it admits, and the row
of a legal opcode fixes the bits that the decoder checks. -/
theorem row_of_opcode : ∀ r ∈ opRows, ∀ op : BitVec 4, op &&& opField r.mask = opField r.value →
    (instrOf op 0).mnemonic = r.mnemonic ∧
      (fixedMask op = 0xF ∨ r.mask = fixedMask op ∧ r.value = op.setWidth 128) := by decide

/-- A word that matches a row decodes to a command of that row. -/
theorem decode_of_hits {r : OpRow} {c : CmdWord} (hr : r ∈ opRows) (h : r.hits c = true) :
    ∃ i, decode c = .ok i ∧ i.mnemonic = r.mnemonic := by
  obtain ⟨hname, hmask⟩ := row_of_opcode r hr (opField c) (opField_of_hits h)
  refine ⟨_, decode_eq_ok_iff.2 ⟨?_, rfl⟩, (mnemonic_instrOf _ c).trans hname⟩
  obtain hmask | ⟨hmask, hvalue⟩ := hmask
  · rw [hmask, and_opMask]
  · rw [← hmask, ← hvalue, beq_iff_eq.1 h]

/-- Settles O4: a word of a row decodes to a command of the row, and the row of an accepted word's command is the only
one with its mnemonic. -/
theorem wordHasOpcodeIffItMatchesTheRow : Obligations.WordHasOpcodeIffItMatchesTheRow := by
  intro r hr c
  constructor
  · exact decode_of_hits hr
  · rintro ⟨i, hi, hname⟩
    obtain ⟨r', hr', hname', hhits⟩ := hits_of_decode_eq_ok hi
    rwa [eq_of_mnemonic_eq r hr r' hr' (hname.symm.trans hname'.symm)]

/-! ### Rejection (R75, R77) -/

/-- The decoder checks no bit of a reserved opcode. -/
theorem fixedMask_reserved : ∀ op : BitVec 4, 10 ≤ op.toNat → fixedMask op = 0xF := by decide

/-- A word of a reserved opcode is accepted (R74). -/
theorem decode_reserved {c : CmdWord} (h : 10 ≤ (opField c).toNat) : decode c = .ok (instrOf (opField c) c) :=
  decode_eq_ok_iff.2 ⟨by rw [fixedMask_reserved _ h, and_opMask], rfl⟩

/-- Settles O5: a row that matches gives a command and a command has a row that matches; a reserved opcode is accepted. -/
theorem wordRejectedIffNoRowMatches : Obligations.WordRejectedIffNoRowMatches := by
  refine fun c => ⟨⟨?_, fun hrows => ?_⟩, fun e he => ?_⟩
  · rintro ⟨e, he⟩ r hr
    by_contra hhits
    obtain ⟨i, hi, -⟩ := decode_of_hits hr (Bool.eq_true_of_not_eq_false hhits)
    cases he.symm.trans hi
  · cases hd : decode c with
    | error e => exact ⟨e, rfl⟩
    | ok i =>
      obtain ⟨r, hr, -, hhits⟩ := hits_of_decode_eq_ok hd
      cases (hrows r hr).symm.trans hhits
  · by_contra hop
    cases he.symm.trans (decode_reserved (not_lt.1 hop))

/-! ### Written-out words -/

/-- Settles O6: the five accepted words are encodings (O1), and bit 127 is fixed for `NOP`. -/
theorem writtenOutWordsDecode : Obligations.WrittenOutWordsDecode :=
  ⟨decodeEncodeEveryCommand .nop, decodeEncodeEveryCommand (.push 0x2B), decodeEncodeEveryCommand (.crcWord 0x0112),
    decodeEncodeEveryCommand (.encA 2 0x01 0x000160 0x1234),
    decodeEncodeEveryCommand (.encS 8 0x0A 0xFFF 3 3 1 0x0807060504030201), rfl⟩

end Sys2Proof.Proofs
end

section
/-! PROOFS. The encoder commands (41_encoder.md R120 to R125, 30_encoding.md R76 to R87) and the reserved opcodes (R182):
which operands are refused, and the bytes of a sync frame. -/
namespace Sys2Proof.Proofs
open Sys2Proof.Machine

/-! ### Refusals (R76, R182, R204) -/

/-- Settles O14: both dispatch arms answer in the state as it stands. -/
theorem reservedOpcodesAnswerNotSupported : Obligations.ReservedOpcodesAnswerNotSupported := by
  rintro s i (⟨low, rest, rfl⟩ | ⟨low, rest, rfl⟩)
  · exact answer_responded s _
  · exact answer_responded s _

theorem exec_encA (s : State) (len : BitVec 4) (b : Byte) (addr : BitVec 24) (data : BitVec 64) :
    exec (.encA len b addr data) s = execEncA len b addr data s := rfl

theorem exec_encS (s : State) (len : BitVec 4) (b : Byte) (addr : BitVec 24) (sub : BitVec 4) (cmd : BitVec 3)
    (pend : BitVec 1) (data : BitVec 64) :
    exec (.encS len b addr sub cmd pend data) s = execEncS len b addr sub cmd pend data s := rfl

/-- Settles O27: the operands named are those `ENC_A` checks. -/
theorem encARefusesBadOperands : Obligations.EncARefusesBadOperands := by
  intro s len b addr data h
  rw [exec_encA, execEncA_bad ((payloadBad_iff ..).2 h)]
  exact answer_responded s _

/-- Settles O29: the operands named are those `ENC_S` checks. -/
theorem encSRefusesBadOperands : Obligations.EncSRefusesBadOperands := by
  intro s len b addr sub cmd pend data h
  rw [← or_assoc, ← payloadBad_iff] at h
  rw [exec_encS, execEncS_bad ((encSOperandsBad_iff ..).2 h)]
  exact answer_responded s _

/-! ### Acceptance (R76, R77) -/

/-- `ENC_A` is well formed exactly when its operand check passes. -/
theorem wellFormed_encA (ps : Params) (len : BitVec 4) (b : Byte) (addr : BitVec 24) (data : BitVec 64) :
    (Instr.encA len b addr data).wellFormed ps = !payloadBad ps len data :=
  payloadFits_eq ps len data

/-- `ENC_S` is well formed exactly when its operand check passes. -/
theorem wellFormed_encS (ps : Params) (len : BitVec 4) (b : Byte) (addr : BitVec 24) (sub : BitVec 4) (cmd : BitVec 3)
    (pend : BitVec 1) (data : BitVec 64) :
    (Instr.encS len b addr sub cmd pend data).wellFormed ps = !encSOperandsBad ps len addr cmd data := by
  rw [Bool.eq_iff_iff, Bool.not_eq_true', Bool.eq_false_iff, Ne, encSOperandsBad_iff]
  simp [Instr.wellFormed, payloadFits_eq, and_assoc]

/-- Settles O30: each command is carried out or refused as its operand check says, and the check is well-formedness. -/
theorem encoderAnswersOkIffWellFormed : Obligations.EncoderAnswersOkIffWellFormed := by
  rintro s i (⟨len, b, addr, data, rfl⟩ | ⟨len, b, addr, sub, cmd, pend, data, rfl⟩)
  · rw [wellFormed_encA, exec_encA]
    cases hbad : payloadBad s.params len data with
    | true => exact ⟨_, _, execEncA_bad hbad b addr, responded_of_answer rfl rfl rfl, rfl⟩
    | false => exact ⟨_, _, execEncA_ok hbad b addr, responded_of_answer rfl rfl rfl, rfl⟩
  · rw [wellFormed_encS, exec_encS]
    cases hbad : encSOperandsBad s.params len addr cmd data with
    | true => exact ⟨_, _, execEncS_bad hbad b sub pend, responded_of_answer rfl rfl rfl, rfl⟩
    | false => exact ⟨_, _, execEncS_ok hbad b sub pend, responded_of_answer rfl rfl rfl, rfl⟩

/-! ### The sync frame (R82 to R87, R122, R123) -/

/-- Word `i` of a frame laid out in a buffer. -/
theorem wordAt_bufOf (l : List Byte) {i : Nat} (h : 2 * i + 1 < 25) :
    wordAt (bufOf l) i = wordOf (l.getD (2 * i) 0) (l.getD (2 * i + 1) 0) := by
  rw [wordAt, byteAt_bufOf _ _ (by omega), byteAt_bufOf _ _ h]

/-- The words of a sync frame laid out in a buffer: the six it is built from, then their frame check. -/
theorem wordAt_syncFrame (ps : Params) {ws : List Word} (hws : ws.length = 6) {i : Nat} (hi : i < 7) :
    wordAt (bufOf (syncFrame ps ws)) i = (ws ++ [crc16 ps ws]).getD i 0 := by
  match ws, hws with
  | [a, b, c, d, e, f], _ =>
    rw [wordAt_bufOf _ (by omega), syncFrame_six]
    interval_cases i <;> exact wordOf_hiByte_loByte _

/-- The words that the frame check covers are the six the frame is built from (R87, R146). -/
theorem checkedWords_syncFrame (ps : Params) {ws : List Word} (hws : ws.length = 6) :
    checkedWords (bufOf (syncFrame ps ws)) = ws := by
  simp only [checkedWords, wordAt_syncFrame ps hws, Nat.reduceLT]
  match ws, hws with
  | [_, _, _, _, _, _], _ => rfl

/-- The last word of a sync frame is the check of the words before it (R87). -/
theorem wordAt_syncFrame_check (ps : Params) {ws : List Word} (hws : ws.length = 6) :
    wordAt (bufOf (syncFrame ps ws)) 6 = crc16 ps (checkedWords (bufOf (syncFrame ps ws))) := by
  rw [checkedWords_syncFrame ps hws, wordAt_syncFrame ps hws (by omega), List.getD_append_right _ _ _ _ hws.le, hws]
  rfl

/-- Bytes 4 to 11 of the frame `ENC_S` emits are the padded payload (R86). -/
theorem byteAt_syncFrame_payload (ps : Params) (node : Byte) (sub : BitVec 4) (addr : BitVec 24) (cmd : BitVec 3)
    (pend : BitVec 1) (p : Nat → Byte) {k : Nat} (hk : k < 8) :
    byteAt (bufOf (syncFrame ps (syncWords node sub addr cmd pend p))) (4 + k) = p k := by
  rw [byteAt_bufOf _ _ (by omega), syncWords, syncFrame_six]
  interval_cases k <;> simp

/-- `out` holds nothing past the bytes of the frame. -/
theorem byteAt_bufOf_of_length_le {l : List Byte} {i : Nat} (h : l.length ≤ i) : byteAt (bufOf l) i = 0 := by
  by_cases hi : i < 25
  · rw [byteAt_bufOf _ _ hi, List.getD_eq_default _ _ h]
  · exact byteAt_out _ _ (not_lt.1 hi)

/-- Settles O28: `ENC_S` answers the bytes of its frame, read back word by word and, for the payload, byte by byte. -/
theorem encSEmitsSyncFrame : Obligations.EncSEmitsSyncFrame := by
  intro s len b addr sub cmd pend data hlen hpad haddr hcmd
  have hok := execEncS_ok (encSOperandsBad_eq_false hlen hpad haddr hcmd) b sub pend
  refine ⟨_, { blankResponse .ok with
      out := bufOf (syncFrame s.params (syncWords b sub addr cmd pend (paddedByte len data))) }, hok, rfl,
    responded_of_answer rfl rfl rfl, ?_, ?_, fun k hk => byteAt_syncFrame_payload _ _ _ _ _ _ _ hk,
    wordAt_syncFrame_check s.params rfl, fun i hi _ => byteAt_bufOf_of_length_le hi⟩
  · rw [wordAt_syncFrame s.params rfl (by omega)]
    exact headerHigh_toNat b sub
  · rw [wordAt_syncFrame s.params rfl (by omega)]
    exact headerLow_toNat addr cmd pend haddr

end Sys2Proof.Proofs
end

section
/-! PROOFS. The CRC unit (40_crc.md R100 to R109): the effect of its three commands, the lookup table, and what follows
from the word step being linear and, for an odd polynomial, injective. -/
namespace Sys2Proof.Proofs
open Sys2Proof.Machine

/-! ### The three commands (R105 to R107) -/

/-- A command that sets `CRC` and answers with it writes nothing else of the block (R24). -/
theorem answerCrc_setCrc (s : State) (v : Word) : ∃ t, answerCrc (setCrc s v) = .next t ∧
    blockOf t = { blockOf s with crc := v } ∧ Responded s t { blankResponse .ok with crc := v } :=
  ⟨_, rfl, rfl, rfl, rfl⟩

/-- Settles O18. -/
theorem crcClearEffect : Obligations.CrcClearEffect := fun s => answerCrc_setCrc s _

/-- Settles O19. -/
theorem crcByteEffect : Obligations.CrcByteEffect := fun s _ => answerCrc_setCrc s _

/-- Settles O20: the word step is the byte step of the high byte and then of the low byte. -/
theorem crcWordEffect : Obligations.CrcWordEffect := fun s _ => answerCrc_setCrc s _

/-! ### The lookup table (R103) -/

/-- The entry of the lookup table that a byte selects. -/
theorem crcRom_getD_toNat (poly : Word) (b : Byte) : (crcRom poly).getD b.toNat 0 = step8 poly 0#16 b := by
  rw [crcRom_getD poly b.isLt, BitVec.ofNat_toNat, BitVec.setWidth_eq]
  rfl

/-- The table-driven step: the byte is the high byte of the register, which shifts it out, and the rest of the byte,
which the table holds. -/
theorem step8_eq_tableStep8 (poly c : Word) (b : Byte) : step8 poly c b = tableStep8 poly c b := by
  have hb : hiByte c ^^^ (hiByte c ^^^ b) = b := by rw [← BitVec.xor_assoc, BitVec.xor_self, BitVec.zero_xor]
  calc step8 poly c b
      = step8 poly (c ^^^ 0#16) (hiByte c ^^^ (hiByte c ^^^ b)) := by rw [BitVec.xor_zero, hb]
    _ = (c <<< 8) ^^^ step8 poly 0#16 (hiByte c ^^^ b) := by rw [step8_xor, step8_hiByte]
    _ = tableStep8 poly c b := by rw [← crcRom_getD_toNat]; rfl

/-- The table that R103 prints, compared with the bit-by-bit step entry by entry. -/
theorem crcTable_eq_crcRom : crcTable = crcRom 0x1021 := by decide +kernel

/-- Settles O21. -/
theorem tableDrivenStepEqualsBitwiseStep : Obligations.TableDrivenStepEqualsBitwiseStep :=
  ⟨fun poly => ⟨crcRom_length poly, fun _ hi => crcRom_getD poly hi⟩, crcTable_eq_crcRom, step8_eq_tableStep8⟩

/-! ### Linearity and the residue (R108, R109) -/

theorem crcFold_zipWith_xor (poly : Word) (m e : List Word) (h : m.length = e.length) (c d : Word) :
    crcFold poly (c ^^^ d) (List.zipWith (fun x y => x ^^^ y) m e) = crcFold poly c m ^^^ crcFold poly d e := by
  induction m generalizing e c d with
  | nil =>
    obtain rfl := List.length_eq_zero_iff.1 h.symm
    rfl
  | cons w m ih =>
    obtain _ | ⟨v, e⟩ := e
    · cases h
    · rw [List.zipWith_cons_cons, crcFold_cons, crcFold_cons, crcFold_cons, step16_xor, ih e (Nat.succ.inj h)]

/-- Settles O23: the second sequence is folded from 0, so that the initial value counts once. -/
theorem frameCheckIsLinear : Obligations.FrameCheckIsLinear := by
  intro ps m e h
  have hfold := crcFold_zipWith_xor ps.crcPoly m e h ps.crcInit 0#16
  rw [BitVec.xor_zero] at hfold
  rw [crc16, crc16, hfold, BitVec.xor_assoc, BitVec.xor_assoc, BitVec.xor_comm ps.crcXorOut]
  rfl

/-- Settles O25: the frame check is the register after the six words, and a word equal to the register clears it. -/
theorem frameCheckResidueIsZero : Obligations.FrameCheckResidueIsZero := by
  intro ps ws hx _
  rw [crcFold_append, crc16_eq hx, crcFold_cons, step16_self, crcFold_nil]

/-! ### An odd polynomial: no step loses information (R108) -/

/-- A zero bit fed: the register shifts, and where the top bit fell out, bit 0 of the polynomial shows. -/
theorem eq_zero_of_crcBit_eq_zero {poly c : Word} {i : Nat} (hp : poly.getLsbD 0 = true)
    (h : crcBit poly 0#8 c i = 0#16) : c = 0#16 := by
  rw [crcBit, BitVec.getLsbD_zero, Bool.xor_false] at h
  cases htop : c.getLsbD 15 with
  | true =>
    rw [if_pos htop] at h
    have hodd : poly.getLsbD 0 = false := by simpa using congrArg (BitVec.getLsbD · 0) h
    rw [hp] at hodd
    cases hodd
  | false =>
    rw [if_neg (Bool.eq_false_iff.1 htop)] at h
    refine BitVec.eq_of_getLsbD_eq fun k hk => ?_
    rw [BitVec.getLsbD_zero]
    obtain rfl | hk15 := Nat.eq_or_lt_of_le (Nat.le_of_lt_succ hk)
    · exact htop
    · have hbit := congrArg (BitVec.getLsbD · (k + 1)) h
      rw [BitVec.getLsbD_eq_getElem hk]
      simpa [Nat.succ_lt_succ hk15] using hbit

theorem crcBit_injective {poly : Word} (hp : poly.getLsbD 0 = true) (b : Byte) (i : Nat) :
    Function.Injective (crcBit poly b · i) := by
  intro c d (h : crcBit poly b c i = crcBit poly b d i)
  have hxor := crcBit_xor poly b b c d i
  rw [h, BitVec.xor_self, BitVec.xor_self] at hxor
  exact BitVec.xor_eq_zero_iff.1 (eq_zero_of_crcBit_eq_zero hp hxor)

/-- A fold of injective steps is injective in its start. -/
theorem foldl_injective {α β : Type} {f : β → α → β} (hf : ∀ a, Function.Injective (f · a)) (l : List α) :
    Function.Injective (l.foldl f ·) := by
  induction l with
  | nil => exact fun _ _ h => h
  | cons a l ih => exact fun _ _ h => hf a (ih h)

theorem step16_injective_register {poly : Word} (hp : poly.getLsbD 0 = true) (w : Word) :
    Function.Injective (step16 poly · w) := by
  have hstep : ∀ b, Function.Injective (step8 poly · b) := fun b => foldl_injective (crcBit_injective hp b) _
  exact fun _ _ h => hstep _ (hstep _ h)

/-- Words fed to one register: by linearity as registers fed one word, a word equal to the register clearing it. -/
theorem step16_injective_word {poly : Word} (hp : poly.getLsbD 0 = true) (c : Word) :
    Function.Injective (step16 poly c) := by
  intro v w h
  have hxor := step16_xor poly c c v w
  rw [h, BitVec.xor_self, BitVec.xor_self] at hxor
  exact BitVec.xor_eq_zero_iff.1 (step16_injective_register hp _ ((step16_self poly _).trans hxor.symm))

theorem crcFold_injective {poly : Word} (hp : poly.getLsbD 0 = true) (ws : List Word) :
    Function.Injective (crcFold poly · ws) :=
  foldl_injective (step16_injective_register hp) ws

/-- Any change of one word changes the fold, whatever the length of the sequence. -/
theorem crcFold_set_ne {poly : Word} (hp : poly.getLsbD 0 = true) {ws : List Word} {i : Nat} {v : Word}
    (hi : i < ws.length) (hv : v ≠ ws.getD i 0) (c : Word) : crcFold poly c (ws.set i v) ≠ crcFold poly c ws := by
  induction ws generalizing i c with
  | nil => cases hi
  | cons w ws ih =>
    cases i with
    | zero => exact fun h => hv (step16_injective_word hp c (crcFold_injective hp ws h))
    | succ i => exact ih (Nat.lt_of_succ_lt_succ hi) hv _

theorem crc16_set_ne {ps : Params} (hp : ps.crcPoly.getLsbD 0 = true) {ws : List Word} {i : Nat} {v : Word}
    (hi : i < ws.length) (hv : v ≠ ws.getD i 0) : crc16 ps (ws.set i v) ≠ crc16 ps ws :=
  fun h => crcFold_set_ne hp hi hv _ ((BitVec.xor_left_inj _).1 h)

theorem xor_bit_ne (w : Word) {j : Nat} (hj : j < 16) : w ^^^ (1#16 <<< j) ≠ w := by
  intro h
  have hbit := congrArg (BitVec.getLsbD · j) h
  simp [hj] at hbit

/-- Settles O24: the polynomial of the rule is odd. -/
theorem singleBitChangeChangesFrameCheck : Obligations.SingleBitChangeChangesFrameCheck := by
  intro ps ws i j hpoly hlen hi hj
  exact crc16_set_ne (by rw [hpoly]; rfl) (hlen ▸ hi) (xor_bit_ne _ hj)

end Sys2Proof.Proofs
end

section
/-! PROOFS. Receiving a sync frame (42_parser.md R140 to R150): fourteen bytes pushed from an aligned start are held one
by one, and the last of them is checked against the frame check of the six words. -/
namespace Sys2Proof.Proofs
open Sys2Proof.Machine

/-! ### Commands and responses in a row (R62) -/

theorem execAll_append {is : List Instr} {s t : State} (h : execAll is s = .next t) (js : List Instr) :
    execAll (is ++ js) s = execAll js t := by
  induction is generalizing s with
  | nil =>
    cases h
    rfl
  | cons i is ih =>
    rw [execAll] at h
    rw [List.cons_append, execAll]
    split at h
    next => exact ih h
    next => cases h
    next => cases h

theorem pushS_append (as bs : List Byte) : pushS (as ++ bs) = pushS as ++ pushS bs := List.map_append

theorem newResponses_append {s t u : State} {q : Response} (h : s.resps <+: t.resps) (hu : u.resps = t.resps ++ [q]) :
    newResponses s u = newResponses s t ++ [q] := by
  rw [newResponses, hu, List.drop_append_of_le_length h.length_le, newResponses]

/-! ### Bytes held (R142, R150) -/

/-- From `s`, which was aligned, the parser has come to `t`, which holds the bytes `bs` of one frame: each was answered
`NEED_MORE`, and neither the build nor the variant has changed. -/
structure Holds (s t : State) (bs : List Byte) : Prop where
  params : t.params = s.params
  variant : t.variant = s.variant
  building : t.pst ≠ .complete
  stage : bs ≠ [] → t.pst = Machine.stage t.variant bs.length
  pcnt : t.pcnt.toNat = bs.length
  bytes : ∀ i, i < bs.length → byteAt t.pbuf i = bs.getD i 0
  resps : s.resps <+: t.resps
  statuses : (newResponses s t).map Response.status = List.replicate bs.length Status.needMore

/-- An aligned parser past its restart holds no byte (R126, R127, R141). -/
theorem holds_restart {s : State} (h : s.pcnt = 0 ∨ s.pst = .complete) : Holds s (restart s) [] where
  params := restart_params s
  variant := restart_variant s
  building := restart_pst_ne s
  stage hne := absurd rfl hne
  pcnt := by
    by_cases hc : s.pst = .complete
    · simp [restart_complete hc]
    · simp [restart_building hc, h.resolve_right hc]
  bytes i hi := absurd hi (Nat.not_lt_zero i)
  resps := by simp
  statuses := by simp [newResponses]

/-- The buffer once the next byte is stored agrees with the bytes of the frame laid out from 0. -/
theorem Holds.byteAt_setByte {s t : State} {bs : List Byte} (h : Holds s t bs) (hlen : bs.length < 25) (b : Byte)
    {i : Nat} (hi : i ≤ bs.length) : byteAt (setByte t.pbuf t.pcnt.toNat b) i = byteAt (bufOf (bs ++ [b])) i := by
  rw [h.pcnt, Machine.byteAt_setByte _ _ _ _ hlen, byteAt_bufOf _ _ (by omega)]
  obtain rfl | hi := Nat.eq_or_lt_of_le hi
  · simp
  · rw [if_neg hi.ne, h.bytes i hi, List.getD_append _ _ _ _ hi]

/-- The check of the next byte, on the bytes of the frame alone. -/
theorem Holds.check_eq {s t : State} {bs : List Byte} (h : Holds s t bs) (hlen : bs.length < 25) (b : Byte) :
    check t.params t.variant (setByte t.pbuf t.pcnt.toNat b) t.pcnt.toNat b =
      check s.params s.variant (bufOf (bs ++ [b])) bs.length b := by
  rw [check_congr fun i hi => h.byteAt_setByte hlen b (h.pcnt ▸ hi), h.params, h.variant, h.pcnt]

/-- A byte that passes its check is held with the ones before it. -/
theorem Holds.push_of_pass {s t : State} {bs : List Byte} {b : Byte} (h : Holds s t bs) (hlen : bs.length < 25)
    (hk : check s.params s.variant (bufOf (bs ++ [b])) bs.length b = some .pass) :
    ∃ u, exec (.push b) t = .next u ∧ Holds s u (bs ++ [b]) := by
  have hp : t.pcnt.toNat < 25 := h.pcnt ▸ hlen
  have hcnt : (storeByte t t.pcnt.toNat b).pcnt.toNat = (bs ++ [b]).length := by
    rw [storeByte_pcnt_toNat t _ b hp, h.pcnt, List.length_append, List.length_singleton]
  have hresps : s.resps <+: (respond (advanceStage (storeByte t t.pcnt.toNat b)) (blankResponse .needMore)).resps :=
    h.resps.trans ⟨_, rfl⟩
  refine ⟨_, execPush_building h.building hp ((h.check_eq hlen b).trans hk), h.params, h.variant, stage_ne_complete _ _,
    fun _ => congrArg (Machine.stage t.variant) hcnt, hcnt, fun i hi => ?_, hresps, ?_⟩
  · have hi' : i ≤ bs.length := by simpa [Nat.lt_succ_iff] using hi
    exact (h.byteAt_setByte hlen b hi').trans (byteAt_bufOf _ _ (by omega))
  · rw [newResponses_append h.resps rfl, List.map_append, h.statuses, List.length_append, List.length_singleton,
      List.replicate_succ']
    rfl

/-- A byte that fails its check is answered with the stage the bytes before it had reached (R143). -/
theorem Holds.push_of_fail {s t : State} {bs : List Byte} {b : Byte} (h : Holds s t bs) (hlen : bs.length < 25)
    (hne : bs ≠ []) (hk : check s.params s.variant (bufOf (bs ++ [b])) bs.length b = some .fail) :
    ∃ u q, exec (.push b) t = .next u ∧
      (newResponses s u).map Response.status = List.replicate bs.length Status.needMore ++ [Status.framingError] ∧
      u.resps.getLast? = some q ∧ q.feState = parseCode (Machine.stage s.variant bs.length) := by
  obtain ⟨u, hu, -, -, hresps⟩ := pushFails_of_fail h.building (h.pcnt ▸ hlen) ((h.check_eq hlen b).trans hk)
  refine ⟨u, _, hu, ?_, by rw [hresps, List.getLast?_concat], ?_⟩
  · rw [newResponses_append h.resps hresps, List.map_append, h.statuses]
    rfl
  · rw [← h.variant, ← h.stage hne]

/-- The byte that finishes the frame is answered with the fields of the frame (R148, R160). -/
theorem Holds.push_of_done {s t : State} {bs : List Byte} {b : Byte} (h : Holds s t bs) (hlen : bs.length < 25)
    (hframe : FrameOk s.params s.variant (bufOf (bs ++ [b])) (bs.length + 1))
    (hk : check s.params s.variant (bufOf (bs ++ [b])) bs.length b = some .done) :
    ∃ u q, exec (.push b) t = .next u ∧
      (newResponses s u).map Response.status = List.replicate bs.length Status.needMore ++ [Status.complete] ∧
      u.resps.getLast? = some q ∧ q.fields = frameFields s.params s.variant (bufOf (bs ++ [b])) := by
  obtain ⟨u, hu, hps, hv, -, -, hcnt, hbuf, -, -, hfl, r, ⟨-, hresps⟩, -⟩ :=
    pushCompletes_of_done h.building (h.pcnt ▸ hlen) ((h.check_eq hlen b).trans hk)
  have hcnt' : u.pcnt.toNat = bs.length + 1 := by
    rw [hcnt, h.pcnt, BitVec.toNat_ofNat, Nat.mod_eq_of_lt (by omega)]
  refine ⟨u, _, hu, ?_, by rw [hresps, List.getLast?_concat], ?_⟩
  · rw [newResponses_append h.resps hresps, List.map_append, h.statuses]
    rfl
  · change frameFields u.params u.variant u.fl = _
    rw [hps, hv, h.params, h.variant]
    refine frameFields_congr hframe fun i hi => ?_
    rw [hfl i (hcnt'.symm ▸ hi), hbuf]
    exact h.byteAt_setByte hlen b (Nat.le_of_lt_succ hi)

/-! ### A sync frame (R146) -/

/-- No byte of a sync frame before its last is refused. -/
theorem Holds.pushS_sync {s t : State} {held : List Byte} (h : Holds s t held) (hv : s.variant = .sync) (bs : List Byte)
    (hlen : held.length + bs.length ≤ 13) : ∃ u, execAll (pushS bs) t = .next u ∧ Holds s u (held ++ bs) := by
  induction bs generalizing t held with
  | nil => exact ⟨t, rfl, by rwa [List.append_nil]⟩
  | cons b bs ih =>
    rw [List.length_cons] at hlen
    have hcheck : check s.params s.variant (bufOf (held ++ [b])) held.length b = some .pass := by
      rw [hv]
      exact check_sync_early _ _ _ (by omega)
    obtain ⟨u, hu, hheld⟩ := h.push_of_pass (by omega) hcheck
    obtain ⟨w, hw, hall⟩ := ih hheld (by rw [List.length_append, List.length_singleton]; omega)
    exact ⟨w, (execAll_pushS_cons hu bs).trans hw, by rwa [List.append_assoc] at hall⟩

/-- A first byte finds the parser restarted (R141). -/
theorem execAll_pushS_restart (s : State) {bs : List Byte} (h : bs ≠ []) :
    execAll (pushS bs) s = execAll (pushS bs) (restart s) := by
  obtain ⟨b, bs, rfl⟩ := List.exists_cons_of_ne_nil h
  have hpush : exec (.push b) s = exec (.push b) (restart s) := by
    change execPush b s = execPush b (restart s)
    rw [execPush, execPush, restart_building (restart_pst_ne s)]
  simp only [pushS, List.map_cons, execAll, hpush]

/-- Fourteen bytes from an aligned start: thirteen are held, and the rest is the `PUSH` of the last one. -/
theorem pushS_sync_last {s : State} {bs : List Byte} (hv : s.variant = .sync) (hs : s.pcnt = 0 ∨ s.pst = .complete)
    (hlen : bs.length = 14) : ∃ t front b, bs = front ++ [b] ∧ front.length = 13 ∧ Holds s t front ∧
      execAll (pushS bs) s = execAll (pushS [b]) t := by
  have hne : bs ≠ [] := List.ne_nil_of_length_pos (by omega)
  have hfront : bs.dropLast.length = 13 := by rw [List.length_dropLast, hlen]
  obtain ⟨t, ht, hheld⟩ := (holds_restart hs).pushS_sync hv bs.dropLast (by rw [hfront]; rfl)
  refine ⟨t, bs.dropLast, bs.getLast hne, (List.dropLast_append_getLast hne).symm, hfront, hheld, ?_⟩
  rw [execAll_pushS_restart s hne]
  conv_lhs => rw [← List.dropLast_append_getLast hne, pushS_append]
  exact execAll_append ht _

/-- Fourteen bytes whose last word is the frame check of the six before it are received as a frame. -/
theorem pushS_sync_complete {s : State} {bs : List Byte} (hv : s.variant = .sync) (hs : s.pcnt = 0 ∨ s.pst = .complete)
    (hlen : bs.length = 14) (hcrc : crc16 s.params (checkedWords (bufOf bs)) = wordAt (bufOf bs) 6) :
    ∃ t q, execAll (pushS bs) s = .next t ∧
      (newResponses s t).map Response.status = List.replicate 13 Status.needMore ++ [Status.complete] ∧
      t.resps.getLast? = some q ∧ q.fields = syncFields s.params (bufOf bs) := by
  obtain ⟨t, front, b, rfl, hfront, hheld, hlast⟩ := pushS_sync_last hv hs hlen
  have hframe : FrameOk s.params s.variant (bufOf (front ++ [b])) (front.length + 1) := by
    rw [hv, hfront]
    exact ⟨rfl, hcrc⟩
  have hcheck : check s.params s.variant (bufOf (front ++ [b])) front.length b = some .done := by
    rw [hv, hfront, check_sync_last, if_pos hcrc]
  obtain ⟨u, q, hu, hst, hq, hfields⟩ := hheld.push_of_done (by omega) hframe hcheck
  rw [hfront] at hst
  rw [hv] at hfields
  exact ⟨u, q, hlast.trans (execAll_pushS_cons hu []), hst, hq, hfields⟩

/-- Fourteen bytes whose last word is not that frame check are refused on the last byte, in `AWAIT_TRAILER`. -/
theorem pushS_sync_fails {s : State} {bs : List Byte} (hv : s.variant = .sync) (hs : s.pcnt = 0 ∨ s.pst = .complete)
    (hlen : bs.length = 14) (hcrc : crc16 s.params (checkedWords (bufOf bs)) ≠ wordAt (bufOf bs) 6) :
    ∃ t q, execAll (pushS bs) s = .next t ∧
      (newResponses s t).map Response.status = List.replicate 13 Status.needMore ++ [Status.framingError] ∧
      t.resps.getLast? = some q ∧ q.feState = 3 := by
  obtain ⟨t, front, b, rfl, hfront, hheld, hlast⟩ := pushS_sync_last hv hs hlen
  have hcheck : check s.params s.variant (bufOf (front ++ [b])) front.length b = some .fail := by
    rw [hv, hfront, check_sync_last, if_neg hcrc]
  obtain ⟨u, q, hu, hst, hq, hfe⟩ := hheld.push_of_fail (by omega) (List.ne_nil_of_length_pos (by omega)) hcheck
  rw [hfront] at hst
  rw [hv, hfront] at hfe
  exact ⟨u, q, hlast.trans (execAll_pushS_cons hu []), hst, hq, hfe⟩

/-! ### Fourteen zero bytes (R110, R228) -/

theorem bufOf_zeros (n : Nat) : bufOf (List.replicate n 0) = Buf.zero := by
  refine buf_ext fun i hi => ?_
  rw [byteAt_bufOf _ _ hi, byteAt_zero, List.getD_eq_getElem?_getD, List.getElem?_getD_replicate_default_eq]

theorem wordAt_zero (i : Nat) : wordAt Buf.zero i = 0 := by
  rw [wordAt, byteAt_zero, byteAt_zero]
  rfl

theorem checkedWords_zero : checkedWords Buf.zero = List.replicate 6 0 := by
  simp only [checkedWords, wordAt_zero]
  rfl

/-- A register that holds 0 stays 0 over zero words, whatever the polynomial (R110). -/
theorem crcFold_zeros (poly : Word) (n : Nat) : crcFold poly 0 (List.replicate n 0) = 0 := by
  induction n with
  | zero => rfl
  | succ n ih => rw [List.replicate_succ, crcFold_cons, step16_self, ih]

/-- A register that does not hold 0 never becomes 0 over zero words, the polynomial being odd. -/
theorem crcFold_zeros_ne_zero {poly c : Word} (hp : poly.getLsbD 0 = true) (hc : c ≠ 0) (n : Nat) :
    crcFold poly c (List.replicate n 0) ≠ 0 :=
  fun h => hc (crcFold_injective hp _ (h.trans (crcFold_zeros poly n).symm))

theorem syncFields_zero {ps : Params} (h : 0 ∉ ps.respCmds) :
    syncFields ps Buf.zero = { blankFields with length := 8 } := by
  simp only [syncFields, wordAt_zero, byteAt_zero]
  rw [show (0 : Word).extractLsb' 1 3 = 0 from rfl, decide_eq_false h]
  rfl

/-- Settles O56: from the initial value 0 the register stays 0, which is the frame check held; from any other it does
not come to 0. -/
theorem allZeroSyncFrameCompletes : Obligations.AllZeroSyncFrameCompletes := by
  intro s hv hs hresp hpoly hx
  have hbuf : bufOf (List.replicate 14 0x00) = Buf.zero := bufOf_zeros 14
  have hcheck : crc16 s.params (checkedWords (bufOf (List.replicate 14 0x00))) =
      crcFold s.params.crcPoly s.params.crcInit (List.replicate 6 0) := by
    rw [hbuf, checkedWords_zero, crc16_eq hx]
  have hlast : wordAt (bufOf (List.replicate 14 0x00)) 6 = 0 := by rw [hbuf, wordAt_zero]
  by_cases hinit : s.params.crcInit = 0
  · obtain ⟨t, q, ht, hst, hq, hfields⟩ := pushS_sync_complete hv hs (List.length_replicate ..)
      (by rw [hcheck, hlast, hinit, crcFold_zeros])
    rw [hbuf, syncFields_zero hresp] at hfields
    exact ⟨t, ht, fun _ => ⟨hst, q, hq, hfields⟩, fun hffff => absurd (hffff.symm.trans hinit) (by decide)⟩
  · have hodd : s.params.crcPoly.getLsbD 0 = true := by rw [hpoly]; rfl
    obtain ⟨t, q, ht, hst, hq, hfe⟩ := pushS_sync_fails hv hs (List.length_replicate ..)
      (by rw [hcheck, hlast]; exact crcFold_zeros_ne_zero hodd hinit 6)
    exact ⟨t, ht, fun h0 => absurd h0 hinit, fun _ => ⟨hst, q, hq, hfe⟩⟩

end Sys2Proof.Proofs
end

section
/-! PROOFS. The async frame `ENC_A` emits (41_encoder.md R120, R121, 30_encoding.md R78, R79), byte by byte. -/
namespace Sys2Proof.Proofs
open Sys2Proof.Machine

/-! ### The address in the frame (R79, R89) -/

theorem hiByte_addrIndex (addr : BitVec 24) : hiByte (addrIndex addr) = addr.extractLsb' 8 8 := by
  ext i hi
  simp [hiByte, addrIndex]

theorem loByte_addrIndex (addr : BitVec 24) : loByte (addrIndex addr) = addr.extractLsb' 0 8 := by
  ext i hi
  simp [loByte, addrIndex]

/-- The subindex and the index are the whole address (R89). -/
theorem addrSubindex_append_addrIndex (addr : BitVec 24) : addrSubindex addr ++ addrIndex addr = addr := by
  apply BitVec.eq_of_toNat_eq
  have haddr := addr.isLt
  rw [toNat_append_add, addrSubindex, addrIndex, toNat_extractLsb'_eq, toNat_extractLsb'_eq]
  omega

/-- The header in wire order, one byte for each row of the table of R78. -/
theorem asyncHeader_eq (ps : Params) (node : Byte) (addr : BitVec 24) (n : Nat) : asyncHeader ps node addr n =
    [node, ps.func, ps.typeCode, ps.flagRequest, 0x00, node,
      if ps.indexOrder = .be then addr.extractLsb' 8 8 else addr.extractLsb' 0 8,
      if ps.indexOrder = .be then addr.extractLsb' 0 8 else addr.extractLsb' 8 8,
      addr.extractLsb' 16 8, 0x00, 0x00, 0x00, BitVec.ofNat 8 n] := by
  rw [asyncHeader, ← hiByte_addrIndex, ← loByte_addrIndex]
  cases ps.indexOrder <;> rfl

/-! ### The frame laid out in a buffer (R78) -/

section Layout

variable (ps : Params) (node : Byte) (addr : BitVec 24) (payload : List Byte)

theorem byteAt_asyncFrame_header {i : Nat} (hi : i < 13) : byteAt (bufOf (asyncFrame ps node addr payload)) i =
    (asyncHeader ps node addr payload.length).getD i 0 := by
  rw [byteAt_bufOf _ _ (by omega), asyncFrame_getD_header _ _ _ _ _ hi]

theorem byteAt_asyncFrame_payload {k : Nat} (hfit : 13 + payload.length ≤ 25) (hk : k < payload.length) :
    byteAt (bufOf (asyncFrame ps node addr payload)) (13 + k) = payload.getD k 0 := by
  rw [byteAt_bufOf _ _ (by omega), asyncFrame_getD_payload _ _ _ _ _ hk]

theorem byteAt_asyncFrame_trailer {k : Nat} (hfit : 13 + payload.length + ps.syncLen ≤ 25) (hk : k < ps.syncLen) :
    byteAt (bufOf (asyncFrame ps node addr payload)) (13 + payload.length + k) = ps.syncByte := by
  rw [byteAt_bufOf _ _ (by omega), asyncFrame_getD_trailer _ _ _ _ _ hk]

/-- The length bytes declare the payload (R80). -/
theorem declaredLen_asyncFrame (hfit : payload.length < 256) :
    declaredLen (bufOf (asyncFrame ps node addr payload)) = payload.length := by
  rw [declaredLen_eq, byteAt_asyncFrame_header _ _ _ _ (by omega), byteAt_asyncFrame_header _ _ _ _ (by omega),
    asyncHeader_eq]
  simpa using hfit

/-- Bytes 6 and 7 are read back in the order they were written (R79). -/
theorem indexFrom_asyncFrame : indexFrom ps.indexOrder (byteAt (bufOf (asyncFrame ps node addr payload)) 6)
    (byteAt (bufOf (asyncFrame ps node addr payload)) 7) = addrIndex addr := by
  rw [byteAt_asyncFrame_header _ _ _ _ (by omega), byteAt_asyncFrame_header _ _ _ _ (by omega), asyncHeader]
  cases ps.indexOrder with
  | be => exact wordOf_hiByte_loByte _
  | le => exact wordOf_hiByte_loByte _

/-- `ENC_A` with `LEN = n` emits `13 + n + P_SYNC_LEN` bytes (R120). -/
theorem asyncFrame_payloadBytes_length (len : BitVec 4) (data : BitVec 64) :
    (asyncFrame ps node addr (payloadBytes len data)).length = 13 + len.toNat + ps.syncLen := by
  rw [asyncFrame_length, payloadBytes_length]

end Layout

/-! ### `out` and `out_len` (R200) -/

/-- A frame that fits `out` has a length that fits the five bits of `out_len`. -/
theorem toNat_outLen {l : List Byte} (h : l.length ≤ 25) : (BitVec.ofNat 5 l.length).toNat = l.length := by
  rw [BitVec.toNat_ofNat, Nat.mod_eq_of_lt (by omega)]

/-- Settles O26: the layout of the frame, with the payload bytes taken from `DATA`. -/
theorem encAEmitsAsyncFrame : Obligations.EncAEmitsAsyncFrame := by
  intro s len b addr data hlen hfit hpad
  have hn := payloadBytes_length len data
  have htotal := asyncFrame_payloadBytes_length s.params b addr len data
  have hheader := @byteAt_asyncFrame_header s.params b addr (payloadBytes len data)
  rw [asyncHeader_eq, hn] at hheader
  refine ⟨_, { blankResponse .ok with
      outLen := BitVec.ofNat 5 (asyncFrame s.params b addr (payloadBytes len data)).length
      out := bufOf (asyncFrame s.params b addr (payloadBytes len data)) },
    execEncA_ok (payloadBad_eq_false hlen hpad) b addr, rfl, responded_of_answer rfl rfl rfl,
    (toNat_outLen (htotal ▸ hfit)).trans htotal, hheader (by omega), hheader (by omega), hheader (by omega),
    hheader (by omega), hheader (by omega), hheader (by omega), hheader (by omega), hheader (by omega),
    hheader (by omega), hheader (by omega), hheader (by omega), hheader (by omega), ?_, fun k hk => ?_,
    fun k hk => ?_, fun i hi _ => byteAt_bufOf_of_length_le (htotal ▸ hi)⟩
  · rw [hheader (by omega)]
    exact (BitVec.toNat_ofNat _ _).trans (Nat.mod_eq_of_lt (by omega))
  · exact (byteAt_asyncFrame_payload _ _ _ _ (by omega) (by omega)).trans (payloadBytes_getD _ _ _ hk)
  · exact hn ▸ byteAt_asyncFrame_trailer _ _ _ _ (by omega) hk

end Sys2Proof.Proofs
end

section
/-! PROOFS. The frame round trips (41_encoder.md R126, R127): the bytes of an encoder's response, pushed from an aligned
start, are received as a frame with the operands in its fields. -/
namespace Sys2Proof.Proofs
open Sys2Proof.Machine

/-! ### The bytes taken from `out` (R200) -/

/-- The first `out_len` bytes of `out` are the frame. -/
theorem take_outLen_bufOf {l : List Byte} (h : l.length ≤ 25) :
    (bufOf l).toList.take (BitVec.ofNat 5 l.length).toNat = l := by
  rw [toNat_outLen h]
  refine List.ext_getElem (by simpa using h) fun i hi hl => ?_
  simp [bufOf, List.getD_eq_getElem?_getD, hl]

/-- An encoder that emits a frame responds with all of it, and leaves the parser as it was (R124). -/
theorem answerFrameBytes_emits (s : State) {l : List Byte} (h : l.length ≤ 25) :
    ∃ u e, answerFrameBytes s l = .next u ∧ u.resps = s.resps ++ [e] ∧ e.outLen.toNat = l.length ∧
      e.out.toList.take e.outLen.toNat = l ∧ u.params = s.params ∧ u.variant = s.variant ∧ u.pcnt = s.pcnt ∧
      u.pst = s.pst :=
  ⟨_, _, rfl, rfl, toNat_outLen h, take_outLen_bufOf h, rfl, rfl, rfl, rfl⟩

/-! ### A whole async frame (R144, R145, R149) -/

/-- A byte of the trailer of a valid async frame, by its position. -/
theorem byteAt_trailer_of_frame {ps : Params} {buf : Buf} {n p : Nat} (h : AsyncFrameOk ps buf n)
    (hp : 13 + declaredLen buf ≤ p) (hn : p < n) : byteAt buf p = ps.syncByte := by
  have htotal : n = 13 + declaredLen buf + ps.syncLen := h.total
  have hbyte : byteAt buf (13 + declaredLen buf + (p - (13 + declaredLen buf))) = ps.syncByte :=
    h.trailer _ (by omega)
  rwa [Nat.add_sub_cancel' hp] at hbyte

/-- Every byte of a valid async frame but the last passes its check. -/
theorem check_async_of_frame {ps : Params} {buf : Buf} {n p : Nat} (h : AsyncFrameOk ps buf n) (hp : p + 1 < n) :
    check ps .async buf p (byteAt buf p) = some .pass := by
  have htotal : n = 13 + declaredLen buf + ps.syncLen := h.total
  obtain rfl | rfl | rfl | ⟨h3, h11⟩ | rfl | h13 := async_position_cases p
  · exact check_zero _ _ _ _
  · rw [h.func, check_async_func, requireByte_self]
  · rw [h.typeCode, check_async_type, requireByte_self]
  · exact check_async_header _ _ _ h3 h11
  · rw [check_async_length, if_pos h.payload_fits]
  · rw [check_async_tail _ _ _ h13]
    obtain hpay | htrail := Nat.lt_or_ge p (13 + declaredLen buf)
    · exact checkTrailer_payload _ _ hpay
    · rw [byteAt_trailer_of_frame h htrail (by omega)]
      exact checkTrailer_good htrail (by omega)

/-- The last byte of a valid async frame that has a trailer finishes it. -/
theorem check_async_of_frame_last {ps : Params} {buf : Buf} {p : Nat} (h : AsyncFrameOk ps buf (p + 1))
    (hsync : 0 < ps.syncLen) : check ps .async buf p (byteAt buf p) = some .done := by
  have htotal : p + 1 = 13 + declaredLen buf + ps.syncLen := h.total
  rw [check_async_tail _ _ _ (by omega), byteAt_trailer_of_frame h (by omega) (by omega)]
  exact checkTrailer_last (by omega) htotal

/-- The check of a byte that follows those held, on the whole frame: it reads nothing that comes later (R142). -/
theorem check_bufOf_append {ps : Params} {v : Variant} {held : List Byte} (b : Byte) (rest : List Byte)
    (hlen : held.length < 25) : check ps v (bufOf (held ++ [b])) held.length b =
      check ps v (bufOf (held ++ b :: rest)) held.length (byteAt (bufOf (held ++ b :: rest)) held.length) := by
  have hbyte : ∀ i, i ≤ held.length → byteAt (bufOf (held ++ [b])) i = byteAt (bufOf (held ++ b :: rest)) i := by
    intro i hi
    rw [byteAt_bufOf _ _ (by omega), byteAt_bufOf _ _ (by omega), List.append_cons held b rest,
      List.getD_append (held ++ [b]) _ _ _ (by simpa using hi)]
  rw [check_congr hbyte, ← hbyte _ le_rfl, byteAt_bufOf _ _ hlen, List.getD_append_right _ _ _ _ le_rfl, Nat.sub_self]
  rfl

/-- No byte of a valid async frame before its last is refused. -/
theorem Holds.pushS_async {s t : State} {held bs : List Byte} {last : Byte} (h : Holds s t held)
    (hv : s.variant = .async) (hlen : (held ++ bs).length < 25)
    (hframe : AsyncFrameOk s.params (bufOf (held ++ bs ++ [last])) ((held ++ bs).length + 1)) :
    ∃ u, execAll (pushS bs) t = .next u ∧ Holds s u (held ++ bs) := by
  induction bs generalizing t held with
  | nil => exact ⟨t, rfl, by rwa [List.append_nil]⟩
  | cons b bs ih =>
    have hheld : held.length + 1 + bs.length = (held ++ b :: bs).length := by
      rw [List.length_append, List.length_cons]
      omega
    have hcheck : check s.params s.variant (bufOf (held ++ [b])) held.length b = some .pass := by
      rw [check_bufOf_append b (bs ++ [last]) (by omega), hv]
      rw [List.append_assoc, List.cons_append] at hframe
      exact check_async_of_frame hframe (by omega)
    obtain ⟨u, hu, hholds⟩ := h.push_of_pass (by omega) hcheck
    rw [List.append_cons held b bs] at hlen hframe
    obtain ⟨w, hw, hall⟩ := ih hholds hlen hframe
    exact ⟨w, (execAll_pushS_cons hu bs).trans hw, by rwa [List.append_cons]⟩

/-- A valid async frame that fits the buffer and has a trailer is received from an aligned start. -/
theorem pushS_async_complete {s : State} {bs : List Byte} (hv : s.variant = .async)
    (hs : s.pcnt = 0 ∨ s.pst = .complete) (hsync : 0 < s.params.syncLen) (hlen : bs.length ≤ 25)
    (hframe : AsyncFrameOk s.params (bufOf bs) bs.length) :
    ∃ t q, execAll (pushS bs) s = .next t ∧
      (newResponses s t).map Response.status = List.replicate (bs.length - 1) Status.needMore ++ [Status.complete] ∧
      t.resps.getLast? = some q ∧ q.fields = asyncFields s.params (bufOf bs) := by
  have hne : bs ≠ [] := List.ne_nil_of_length_pos (by rw [hframe.total]; omega)
  rw [execAll_pushS_restart s hne]
  obtain rfl | ⟨front, last, rfl⟩ := List.eq_nil_or_concat' bs
  · exact absurd rfl hne
  rw [List.length_append, List.length_singleton] at *
  obtain ⟨t, ht, hheld⟩ := (holds_restart hs).pushS_async hv hlen hframe
  have hdone : check s.params s.variant (bufOf (front ++ [last])) front.length last = some .done := by
    rw [check_bufOf_append last [] hlen, hv]
    exact check_async_of_frame_last hframe hsync
  obtain ⟨u, q, hu, hst, hq, hfields⟩ := hheld.push_of_done hlen (hv.symm ▸ hframe) hdone
  rw [hv] at hfields
  refine ⟨u, q, ?_, hst, hq, hfields⟩
  rw [pushS_append, execAll_append ht]
  exact execAll_pushS_cons hu []

/-! ### The round trips -/

/-- The frame `ENC_A` emits is a valid async frame (R78, R120). -/
theorem asyncFrameOk_asyncFrame {ps : Params} (node : Byte) (addr : BitVec 24) {payload : List Byte}
    (hmax : payload.length ≤ ps.maxPayload) (hfit : 13 + payload.length + ps.syncLen ≤ 25) :
    AsyncFrameOk ps (bufOf (asyncFrame ps node addr payload)) (asyncFrame ps node addr payload).length := by
  have hdecl := declaredLen_asyncFrame ps node addr payload (by omega)
  constructor
  · rwa [hdecl]
  · rw [hdecl]
    exact asyncFrame_length ps node addr payload
  · rw [byteAt_asyncFrame_header _ _ _ _ (by omega)]
    rfl
  · rw [byteAt_asyncFrame_header _ _ _ _ (by omega)]
    rfl
  · intro k hk
    rw [hdecl]
    exact byteAt_asyncFrame_trailer _ _ _ _ hfit hk

/-- The fields of the frame `ENC_A` emits are its operands (R155, R157). -/
theorem asyncFields_asyncFrame (ps : Params) (node : Byte) (addr : BitVec 24) {payload : List Byte} {f : Fields}
    (hfit : 13 + payload.length ≤ 25) (hf : f = asyncFields ps (bufOf (asyncFrame ps node addr payload))) :
    f.node.toNat = node.toNat ∧ f.node2 = node ∧ f.address = addr ∧ f.length.toNat = payload.length ∧
      (∀ k : Fin 8, k.val < payload.length → f.payload[k] = payload.getD k.val 0) ∧ f.isResponse = 0 := by
  subst hf
  have hdecl := declaredLen_asyncFrame ps node addr payload (by omega)
  have hheader := @byteAt_asyncFrame_header ps node addr payload
  rw [asyncHeader_eq] at hheader
  have h0 : byteAt (bufOf (asyncFrame ps node addr payload)) 0 = node := hheader (by omega)
  have h3 : byteAt (bufOf (asyncFrame ps node addr payload)) 3 = ps.flagRequest := hheader (by omega)
  have h5 : byteAt (bufOf (asyncFrame ps node addr payload)) 5 = node := hheader (by omega)
  have h8 : byteAt (bufOf (asyncFrame ps node addr payload)) 8 = addrSubindex addr := hheader (by omega)
  simp only [asyncFields, hdecl, h0, h3, h5, h8, indexFrom_asyncFrame, addrSubindex_append_addrIndex]
  refine ⟨BitVec.toNat_setWidth_of_le (by omega), trivial, trivial, ?_, fun k hk => ?_, ?_⟩
  · rw [BitVec.toNat_ofNat, Nat.mod_eq_of_lt (by omega)]
  · simp [hk, byteAt_asyncFrame_payload ps node addr payload hfit hk]
  · simp

/-- Settles O54: the frame emitted is valid, so it is received, and its fields are the operands. -/
theorem asyncRoundTrip : Obligations.AsyncRoundTrip := by
  intro s len b addr data hv hs hmax hsync hfit hpad
  have hn := payloadBytes_length len data
  have htotal := asyncFrame_payloadBytes_length s.params b addr len data
  obtain ⟨u, e, hu, hresps, houtLen, htake, hps, huv, hcnt, hpst⟩ := answerFrameBytes_emits s (htotal ▸ hfit)
  have hframe := asyncFrameOk_asyncFrame b addr (hn ▸ hmax) (hn ▸ hfit)
  obtain ⟨t, q, ht, hst, hq, hfields⟩ := pushS_async_complete (huv.trans hv) (hcnt ▸ hpst ▸ hs) (hps ▸ hsync)
    (htotal ▸ hfit) (hps ▸ hframe)
  rw [hps] at hfields
  obtain ⟨hnode, hnode2, haddr, hlength, hpayload, hresp⟩ := asyncFields_asyncFrame _ _ _ (by omega) hfields
  refine ⟨u, e, t, (execEncA_ok (payloadBad_eq_false hmax hpad) b addr).trans hu, hresps, houtLen.trans htotal,
    htake.symm ▸ ht, ?_, q, hq, hnode, hnode2, haddr, hlength.trans hn, fun k hk => ?_, hresp⟩
  · rw [hst, htotal, show 13 + len.toNat + s.params.syncLen - 1 = 12 + len.toNat + s.params.syncLen by omega]
  · rw [hpayload k (hn.symm ▸ hk), payloadBytes_getD _ _ _ hk]

/-- The fields of the frame `ENC_S` emits are its operands, the payload as padded (R156). -/
theorem syncFields_syncFrame (ps : Params) (node : Byte) (sub : BitVec 4) {addr : BitVec 24} (cmd : BitVec 3)
    (pend : BitVec 1) (p : Nat → Byte) {f : Fields} (haddr : addr.toNat ≤ 0xFFF)
    (hf : f = syncFields ps (bufOf (syncFrame ps (syncWords node sub addr cmd pend p)))) :
    f.node.toNat = node.toNat ∧ f.subnode = sub ∧ f.address = addr ∧ f.cmd = cmd ∧ f.pending = pend ∧ f.length = 8 ∧
      ∀ k : Fin 8, f.payload[k] = p k.val := by
  subst hf
  have hsub := sub.isLt
  have hcmd := cmd.isLt
  have hpend := pend.isLt
  have hnode := node.isLt
  have h0 := headerHigh_toNat node sub
  have h1 := headerLow_toNat addr cmd pend haddr
  have hw0 : wordAt (bufOf (syncFrame ps (syncWords node sub addr cmd pend p))) 0 = headerHigh node sub :=
    wordAt_syncFrame ps rfl (by omega)
  have hw1 : wordAt (bufOf (syncFrame ps (syncWords node sub addr cmd pend p))) 1 = headerLow addr cmd pend :=
    wordAt_syncFrame ps rfl (by omega)
  simp only [syncFields, hw0, hw1]
  refine ⟨?_, ?_, ?_, ?_, ?_, trivial, fun k => ?_⟩
  · rw [toNat_extractLsb'_eq, h0]
    omega
  · apply BitVec.eq_of_toNat_eq
    rw [toNat_extractLsb'_eq, h0]
    omega
  · apply BitVec.eq_of_toNat_eq
    rw [BitVec.toNat_setWidth_of_le (by omega), toNat_extractLsb'_eq, h1]
    omega
  · apply BitVec.eq_of_toNat_eq
    rw [toNat_extractLsb'_eq, h1]
    omega
  · apply BitVec.eq_of_toNat_eq
    rw [toNat_extractLsb'_eq, h1]
    omega
  · simp [byteAt_syncFrame_payload ps node sub addr cmd pend p k.isLt]

/-- Settles O55: the frame emitted carries its own frame check, so it is received, and its fields are the operands. -/
theorem syncRoundTrip : Obligations.SyncRoundTrip := by
  intro s len b addr sub cmd pend data hv hs hmax hpad haddr hcmd
  have hlen : (syncFrame s.params (syncWords b sub addr cmd pend (paddedByte len data))).length = 14 := rfl
  obtain ⟨u, e, hu, hresps, -, htake, hps, huv, hcnt, hpst⟩ := answerFrameBytes_emits s (hlen.trans_le (by omega))
  have hcrc := (wordAt_syncFrame_check s.params (ws := syncWords b sub addr cmd pend (paddedByte len data)) rfl).symm
  obtain ⟨t, q, ht, hst, hq, hfields⟩ := pushS_sync_complete (huv.trans hv) (hcnt ▸ hpst ▸ hs) hlen
    (by rw [hps]; exact hcrc)
  rw [hps] at hfields
  obtain ⟨hnode, hfield⟩ := syncFields_syncFrame _ _ _ _ _ _ haddr hfields
  exact ⟨u, e, t, (execEncS_ok (encSOperandsBad_eq_false hmax hpad haddr hcmd) b sub pend).trans hu, hresps,
    htake.symm ▸ ht, hst, q, hq, hnode, hfield⟩

end Sys2Proof.Proofs
end

section
/-! PROOFS. The commands of the parser, position by position (42_parser.md R141 to R149, R161, R162, R165): the outcome of
a `PUSH` at each position of a frame, what a framing error leaves, and the two commands beside `PUSH`. -/
namespace Sys2Proof.Proofs
open Sys2Proof.Machine

/-! ### Beside `PUSH` (R161, R162) -/

/-- Settles O41: the parser is cleared and `OK` answered, and neither touches anything else. -/
theorem parserClearEffect : Obligations.ParserClearEffect := fun _ => ⟨_, rfl, rfl, rfl, rfl⟩

/-- Settles O42, by whether the latch holds a frame. -/
theorem frameReadReturnsTheLatch : Obligations.FrameReadReturnsTheLatch := by
  intro s
  cases hv : s.flValid with
  | true =>
    exact ⟨_, { blankResponse .ok with
        frameLen := s.flLen
        frame := frontBytes s.fl s.flLen.toNat
        fields := frameFields s.params s.variant s.fl },
      exec_frameRead_valid hv, rfl, responded_of_answer rfl rfl rfl, fun _ => ⟨rfl, byteAt_frontBytes _ _⟩, nofun⟩
  | false => exact ⟨_, _, exec_frameRead_empty hv, rfl, responded_of_answer rfl rfl rfl, nofun, fun _ => rfl⟩

/-! ### The outcome of a check (R140, R142, R143) -/

/-- A check that a condition decides accepts the byte or fails it. -/
theorem push_of_ite_check {s : State} {b : Byte} {st st' : ParseState} {p : Prop} [Decidable p] (hs : s.pst = st)
    (hne : st ≠ .complete) (hp : s.pcnt.toNat < 25)
    (hk : check s.params s.variant (setByte s.pbuf s.pcnt.toNat b) s.pcnt.toNat b = some (if p then .pass else .fail))
    (hst : stage s.variant (s.pcnt.toNat + 1) = st') :
    if p then PushAccepts s b st' else PushFails s b (parseCode st) := by
  subst hs
  split at hk
  · rw [if_pos ‹p›]
    exact pushAccepts_of_pass hne hp hk hst
  · rw [if_neg ‹¬p›]
    exact pushFails_of_fail hne hp hk

/-- Settles O31: the byte in `COMPLETE` is byte 0 of a new frame, which passes and leaves `stage` at its first row. -/
theorem pushInCompleteRestarts : Obligations.PushInCompleteRestarts := by
  intro s b hs
  refine ⟨_, (execPush_complete b hs).trans rfl, ?_, rfl, rfl⟩
  rw [blockOf_respond, advanceStage, stage_of_le_one _ (by simp)]
  rfl

/-! ### An async frame (R144, R145, R149) -/

/-- Settles O32: the two markers are required bytes, and the rest of the header passes. -/
theorem asyncMarkerChecks : Obligations.AsyncMarkerChecks := by
  intro s b hv hs
  refine ⟨fun hp => ?_, fun hp hst => ?_, fun hp hst => ?_, fun h3 h11 => ?_⟩
  · exact pushAccepts_of_pass hs (by simp [hp]) (by simp [hp]) (by simp [hp, stage_of_le_one])
  · exact push_of_ite_check hst (by simp) (by simp [hp]) (by simp [hp, hv, requireByte]) (by simp [hp, hv, stage])
  · exact push_of_ite_check hst (by simp) (by simp [hp]) (by simp [hp, hv, requireByte]) (by simp [hp, hv, stage])
  · exact pushAccepts_of_pass hs (by omega) (hv ▸ check_async_header _ _ _ h3 h11)
      (hv ▸ stage_async_len (by omega) (by omega))

/-- The declared length once its low byte is stored (R80, R145). -/
theorem declaredLen_setByte_low (buf : Buf) (b : Byte) :
    declaredLen (setByte buf 12 b) = 2 ^ 8 * (byteAt buf 11).toNat + b.toNat := by
  rw [declaredLen_eq, byteAt_setByte_ne _ _ _ _ (by omega), byteAt_setByte_self _ _ _ (by omega)]
  rfl

/-- Settles O33: the check at position 12 is on the declared length with the byte just stored. -/
theorem asyncLengthCheck : Obligations.AsyncLengthCheck := by
  intro s b hv hst hp
  have hcnt : s.pcnt.toNat = 12 := by rw [hp]; rfl
  refine push_of_ite_check hst (by simp) (by omega) ?_ (hv ▸ stage_async_trailer (by omega))
  rw [hcnt, hv, check_async_length, declaredLen_setByte_low]

/-- Settles O34: past the header the check is the trailer check, on a declared length that the store leaves. -/
theorem asyncPayloadAndTrailer : Obligations.AsyncPayloadAndTrailer := by
  intro s b n hv hst hfit _ hn
  have hs : s.pst ≠ .complete := by simp [hst]
  have hcheck : 13 ≤ s.pcnt.toNat → check s.params s.variant (setByte s.pbuf s.pcnt.toNat b) s.pcnt.toNat b =
      checkTrailer s.params n s.pcnt.toNat b := by
    intro hp
    rw [hv, check_async_tail _ _ _ hp, declaredLen_setByte _ _ (by omega) (by omega), declaredLen_eq, ← hn]
    rfl
  have hstage : 13 ≤ s.pcnt.toNat → stage s.variant (s.pcnt.toNat + 1) = .awaitTrailer :=
    fun hp => hv ▸ stage_async_trailer (by omega)
  refine ⟨fun hp hpay => ?_, fun hp hend => ?_⟩
  · exact pushAccepts_of_pass hs (by omega) ((hcheck hp).trans (checkTrailer_payload _ _ (by omega))) (hstage hp)
  split_ifs with hb hlast
  · have hfail := pushFails_of_fail hs (by omega) ((hcheck (by omega)).trans (checkTrailer_bad hp (by omega) hb))
    rwa [hst] at hfail
  · obtain rfl := not_not.1 hb
    exact pushCompletes_of_done hs (by omega) ((hcheck (by omega)).trans (checkTrailer_last hp (by omega)))
  · obtain rfl := not_not.1 hb
    exact pushAccepts_of_pass hs (by omega) ((hcheck (by omega)).trans (checkTrailer_good hp (by omega)))
      (hstage (by omega))

/-! ### A sync frame (R146) -/

/-- The stage after each byte of a sync frame but the last, by its position (R150). -/
theorem stage_sync_succ (p : Nat) : stage .sync (p + 1) = if p = 0 then .awaitFunc else if p ≤ 2 then .awaitType
    else if p ≤ 10 then .awaitLen else .awaitTrailer := by
  simp [stage, Nat.lt_succ_iff]

/-- The last byte of a sync frame leaves the six words checked, and is the low byte of the seventh. -/
theorem check_sync_last_setByte (ps : Params) (buf : Buf) (b : Byte) : check ps .sync (setByte buf 13 b) 13 b =
    some (if crc16 ps (checkedWords buf) = wordOf (byteAt buf 12) b then .done else .fail) := by
  have hwords : checkedWords (setByte buf 13 b) = checkedWords buf :=
    checkedWords_congr fun i hi => byteAt_setByte_ne _ _ _ _ (by omega)
  have hlast : wordAt (setByte buf 13 b) 6 = wordOf (byteAt buf 12) b := by
    rw [wordAt, byteAt_setByte_ne _ _ _ _ (by omega), byteAt_setByte_self _ _ _ (by omega)]
  rw [check_sync_last, hwords, hlast]

/-- Settles O35: before the last byte nothing is checked, and the last byte gives the word the frame check must equal. -/
theorem syncBytesAndCrcCheck : Obligations.SyncBytesAndCrcCheck := by
  intro s b hv hs
  refine ⟨fun hp => ?_, fun hp hst => ?_⟩
  · exact pushAccepts_of_pass hs (by omega) (hv ▸ check_sync_early _ _ _ (by omega)) (hv ▸ stage_sync_succ _)
  · have hcnt : s.pcnt.toNat = 13 := by rw [hp]; rfl
    have hcheck := check_sync_last_setByte s.params s.pbuf b
    rw [← hv, ← hcnt] at hcheck
    change if crc16 s.params (checkedWords s.pbuf) = wordOf (byteAt s.pbuf 12) b then _ else _
    split_ifs with hcrc
    · exact pushCompletes_of_done hs (by omega) (hcheck.trans (by rw [if_pos hcrc]))
    · have hfail := pushFails_of_fail hs (by omega) (hcheck.trans (by rw [if_neg hcrc]))
      rwa [hst] at hfail

/-! ### The response of a `PUSH` (R143, R165) -/

/-- A byte in `COMPLETE` does not fail: it is byte 0 of a new frame (R141, R144). -/
theorem building_of_check_fail {s : State} {b : Byte} (h : check (restart s).params (restart s).variant
    (setByte (restart s).pbuf (restart s).pcnt.toNat b) (restart s).pcnt.toNat b = some .fail) : s.pst ≠ .complete := by
  intro hs
  simp [restart_complete hs] at h

/-- Settles O36: of the three results of a check only a failed one is answered so, and then nothing was complete. -/
theorem framingErrorKeepsTheByte : Obligations.FramingErrorKeepsTheByte := by
  intro s t b r h hresps hstatus
  obtain ⟨-, k, hk, hr⟩ := pushByte_next (s := restart s) h
  obtain ⟨rfl, rfl⟩ | ⟨-, rfl⟩ | ⟨-, rfl⟩ := pushResult_next hr
  · have hs := building_of_check_fail hk
    rw [restart_building hs] at hresps ⊢
    obtain rfl := List.singleton_inj.1 (List.append_cancel_left hresps)
    exact ⟨byteAt_setByte_self _ _ _ (by omega), rfl, rfl, rfl, rfl, rfl, hs, rfl⟩
  · rw [respond_resps, latchFrame_resps, storeByte_resps, restart_resps] at hresps
    obtain rfl := List.singleton_inj.1 (List.append_cancel_left hresps)
    cases hstatus
  · rw [respond_resps, advanceStage_resps, storeByte_resps, restart_resps] at hresps
    obtain rfl := List.singleton_inj.1 (List.append_cancel_left hresps)
    cases hstatus

/-- Settles O38: while a frame is being built the check answers, and each of its three results is one of the outcomes. -/
theorem pushEndsInOneOfThreeOutcomes : Obligations.PushEndsInOneOfThreeOutcomes := by
  intro s b h
  have hp := restart_pcnt_lt h
  obtain ⟨k, hk⟩ := check_answers b (partOk_of_blockInv (blockInv_restart h) (restart_pst_ne s))
  have hrun : exec (.push b) s = pushResult (storeByte (restart s) (restart s).pcnt.toNat b) b k :=
    pushByte_checked hp hk
  have hcnt : 1 ≤ (storeByte (restart s) (restart s).pcnt.toNat b).pcnt.toNat := by
    rw [storeByte_pcnt_toNat _ _ _ hp]
    omega
  have hresps : (storeByte (restart s) (restart s).pcnt.toNat b).resps = s.resps := restart_resps s
  cases k with
  | pass => exact ⟨_, _, hrun, congrArg (· ++ _) hresps, .inl rfl, hcnt⟩
  | done => exact ⟨_, _, hrun, congrArg (· ++ _) hresps, .inr (.inl rfl), hcnt⟩
  | fail => exact ⟨_, _, hrun, congrArg (· ++ _) hresps, .inr (.inr rfl), le_rfl⟩

end Sys2Proof.Proofs
end

section
/-! PROOFS. The field accessors of a latched frame (42_parser.md R155 to R160), as numbers. -/
namespace Sys2Proof.Proofs
open Sys2Proof.Machine

theorem toNat_indexFrom (order : IndexOrder) (b6 b7 : Byte) : (indexFrom order b6 b7).toNat =
    if order = .be then 2 ^ 8 * b6.toNat + b7.toNat else 2 ^ 8 * b7.toNat + b6.toNat := by
  cases order with
  | be => exact toNat_wordOf b6 b7
  | le => exact toNat_wordOf b7 b6

theorem ofBool_decide_eq_one_iff (p : Prop) [Decidable p] : BitVec.ofBool (decide p) = 1 ↔ p := by
  by_cases h : p <;> simp [h]

/-- Settles O43: the record of an async frame, its composed fields as numbers. -/
theorem asyncAccessors : Obligations.AsyncAccessors := by
  intro ps fl n hn
  obtain rfl : declaredLen fl = n := (declaredLen_eq fl).trans hn
  have hlen : (BitVec.ofNat 16 (declaredLen fl)).toNat = declaredLen fl :=
    Nat.mod_eq_of_lt (wordOf (byteAt fl 11) (byteAt fl 12)).isLt
  have haddr : (byteAt fl 8 ++ indexFrom ps.indexOrder (byteAt fl 6) (byteAt fl 7)).toNat =
      (indexFrom ps.indexOrder (byteAt fl 6) (byteAt fl 7)).toNat + 2 ^ 16 * (byteAt fl 8).toNat := by
    rw [toNat_append_add, Nat.add_comm, Nat.mul_comm]
  refine ⟨BitVec.toNat_setWidth_of_le (by omega), rfl, rfl, toNat_indexFrom _ _ _, rfl, haddr, hlen, fun k => ?_,
    ofBool_decide_eq_one_iff _, rfl, rfl, rfl, rfl⟩
  simp [frameFields, asyncFields]

/-- Settles O44: the record of a sync frame, its fields cut from the two header words. -/
theorem syncAccessors : Obligations.SyncAccessors := by
  intro ps fl
  have h0 := (wordAt fl 0).isLt
  have h1 := (wordAt fl 1).isLt
  have haddr : ((wordAt fl 1).extractLsb' 4 12).toNat = (wordAt fl 1).toNat / 2 ^ 4 := by
    rw [toNat_extractLsb'_eq]
    omega
  refine ⟨?_, ?_, (BitVec.toNat_setWidth_of_le (by omega)).trans haddr,
    (BitVec.toNat_setWidth_of_le (by omega)).trans haddr, rfl, toNat_extractLsb'_eq _ 1 3, ?_, rfl, fun k => ?_, rfl,
    ofBool_decide_eq_one_iff _, rfl, rfl⟩
  · simp only [frameFields, syncFields, toNat_extractLsb'_eq]
    omega
  · simp only [frameFields, syncFields, toNat_extractLsb'_eq]
    omega
  · simp only [frameFields, syncFields, toNat_extractLsb'_eq]
    omega
  · simp [frameFields, syncFields]

end Sys2Proof.Proofs
end

section
/-! PROOFS. Resynchronisation of an async parser (42_parser.md R143, R167): a byte that fails its check stands in the
parser as byte 0 of a new frame, from where the rest of a valid frame is received. -/
namespace Sys2Proof.Proofs
open Sys2Proof.Machine

/-! ### No `PUSH` reads the responses given before it -/

/-- The state with other responses given so far. -/
def withResps (s : State) (rs : List Response) : State := { s with resps := rs }

theorem restart_withResps (s : State) (rs : List Response) : restart (withResps s rs) = withResps (restart s) rs := by
  by_cases hs : s.pst = .complete
  · rw [restart_complete hs, restart_complete (s := withResps s rs) hs]
    rfl
  · rw [restart_building hs, restart_building (s := withResps s rs) hs]

theorem pushByte_withResps {s t : State} {b : Byte} (h : pushByte b s = .next t) (rs : List Response) :
    ∃ r, t.resps = s.resps ++ [r] ∧ pushByte b (withResps s rs) = .next (withResps t (rs ++ [r])) := by
  obtain ⟨hp, k, hk, hr⟩ := pushByte_next h
  rw [pushByte_checked (s := withResps s rs) hp hk]
  obtain ⟨rfl, rfl⟩ | ⟨rfl, rfl⟩ | ⟨rfl, rfl⟩ := pushResult_next hr
  · exact ⟨_, rfl, rfl⟩
  · exact ⟨_, rfl, rfl⟩
  · exact ⟨_, rfl, rfl⟩

theorem exec_push_withResps {s t : State} {b : Byte} (h : exec (.push b) s = .next t) (rs : List Response) :
    ∃ r, t.resps = s.resps ++ [r] ∧ exec (.push b) (withResps s rs) = .next (withResps t (rs ++ [r])) := by
  obtain ⟨r, hr, hrun⟩ := pushByte_withResps (s := restart s) h rs
  rw [restart_resps] at hr
  exact ⟨r, hr, (congrArg (pushByte b) (restart_withResps s rs)).trans hrun⟩

/-- The first of several `PUSH` commands, when all of them answer. -/
theorem exists_of_execAll_pushS_cons {s t : State} {b : Byte} {bs : List Byte}
    (h : execAll (pushS (b :: bs)) s = .next t) :
    ∃ u, exec (.push b) s = .next u ∧ execAll (pushS bs) u = .next t := by
  simp only [pushS, List.map_cons, execAll] at h
  split at h
  next u hu => exact ⟨u, hu, h⟩
  next => cases h
  next => cases h

/-- Bytes pushed give the same responses and the same block, whatever was answered before them. -/
theorem execAll_pushS_withResps {s t : State} {bs : List Byte} (h : execAll (pushS bs) s = .next t)
    (rs : List Response) :
    ∃ qs, t.resps = s.resps ++ qs ∧ execAll (pushS bs) (withResps s rs) = .next (withResps t (rs ++ qs)) := by
  induction bs generalizing s rs with
  | nil =>
    cases h
    exact ⟨[], by simp, by rw [List.append_nil]; rfl⟩
  | cons b bs ih =>
    obtain ⟨u, hu, ht⟩ := exists_of_execAll_pushS_cons h
    obtain ⟨r, hr, hrun⟩ := exec_push_withResps hu rs
    obtain ⟨qs, hqs, hrest⟩ := ih ht (rs ++ [r])
    refine ⟨r :: qs, ?_, (execAll_pushS_cons hrun bs).trans ?_⟩
    · rw [hqs, hr, List.append_assoc, List.singleton_append]
    · rw [hrest, List.append_assoc, List.singleton_append]

/-! ### The retry as a fresh start (R143) -/

/-- A parser that retries a byte stands as if it had been aligned and had answered that byte `NEED_MORE`. -/
theorem holds_retried {u : State} (hpst : u.pst = .awaitFunc) (hcnt : u.pcnt = 1) :
    Holds u (respond u (blankResponse .needMore)) [byteAt u.pbuf 0] where
  params := rfl
  variant := rfl
  building := by simp [hpst]
  stage _ := hpst.trans (stage_of_le_one _ le_rfl).symm
  pcnt := by simp [hcnt]
  bytes i hi := by
    obtain rfl : i = 0 := by simpa using hi
    rfl
  resps := ⟨_, rfl⟩
  statuses := by simp [newResponses, blankResponse]

/-- The byte that finishes a frame leaves that frame in the latch (R148). -/
theorem Holds.latched_of_done {s t u : State} {bs : List Byte} {b : Byte} (h : Holds s t bs) (hlen : bs.length < 25)
    (hk : check s.params s.variant (bufOf (bs ++ [b])) bs.length b = some .done) (hu : exec (.push b) t = .next u) :
    u.flLen.toNat = (bs ++ [b]).length ∧ ∀ i, i < (bs ++ [b]).length → byteAt u.fl i = (bs ++ [b]).getD i 0 := by
  obtain ⟨u', hu', -, -, -, -, hcnt, hbuf, -, hfllen, hfl, -⟩ :=
    pushCompletes_of_done h.building (h.pcnt ▸ hlen) ((h.check_eq hlen b).trans hk)
  cases hu'.symm.trans hu
  have hcnt' : u.pcnt.toNat = bs.length + 1 := by
    rw [hcnt, h.pcnt, BitVec.toNat_ofNat, Nat.mod_eq_of_lt (by omega)]
  rw [List.length_append, List.length_singleton]
  refine ⟨by rw [hfllen, hcnt'], fun i hi => ?_⟩
  rw [hfl i (hcnt'.symm ▸ hi), hbuf, h.byteAt_setByte hlen b (Nat.le_of_lt_succ hi), byteAt_bufOf _ _ (by omega)]

/-- The bytes of a valid async frame that follow those held complete it and latch it. -/
theorem Holds.pushS_async_complete {s t : State} {held bs : List Byte} {last : Byte} (h : Holds s t held)
    (hv : s.variant = .async) (hsync : 0 < s.params.syncLen) (hlen : (held ++ bs).length < 25)
    (hframe : AsyncFrameOk s.params (bufOf (held ++ bs ++ [last])) ((held ++ bs).length + 1)) :
    ∃ u, execAll (pushS (bs ++ [last])) t = .next u ∧
      (newResponses s u).map Response.status =
        List.replicate (held ++ bs).length Status.needMore ++ [Status.complete] ∧
      u.flLen.toNat = (held ++ bs ++ [last]).length ∧
      ∀ i, i < (held ++ bs ++ [last]).length → byteAt u.fl i = (held ++ bs ++ [last]).getD i 0 := by
  obtain ⟨w, hw, hheld⟩ := h.pushS_async hv hlen hframe
  have hdone : check s.params s.variant (bufOf (held ++ bs ++ [last])) (held ++ bs).length last = some .done := by
    rw [check_bufOf_append last [] hlen, hv]
    exact check_async_of_frame_last hframe hsync
  obtain ⟨u, -, hu, hst, -, -⟩ := hheld.push_of_done hlen (hv.symm ▸ hframe) hdone
  refine ⟨u, ?_, hst, hheld.latched_of_done hlen hdone hu⟩
  rw [pushS_append, execAll_append hw]
  exact execAll_pushS_cons hu []

/-- From a byte retried the rest of its frame is received. -/
theorem pushS_async_of_retried {u : State} {bs : List Byte} {last : Byte} (hpst : u.pst = .awaitFunc)
    (hcnt : u.pcnt = 1) (hv : u.variant = .async) (hsync : 0 < u.params.syncLen) (hlen : bs.length + 1 < 25)
    (hframe : AsyncFrameOk u.params (bufOf (byteAt u.pbuf 0 :: bs ++ [last])) (bs.length + 2)) :
    ∃ t, execAll (pushS (bs ++ [last])) u = .next t ∧
      (∃ qs, t.resps = u.resps ++ qs ∧
        qs.map Response.status = List.replicate bs.length Status.needMore ++ [Status.complete]) ∧
      t.flLen.toNat = bs.length + 2 ∧
      ∀ i, i < bs.length + 2 → byteAt t.fl i = (byteAt u.pbuf 0 :: bs ++ [last]).getD i 0 := by
  obtain ⟨t, ht, hst, hfllen, hfl⟩ :=
    (holds_retried hpst hcnt).pushS_async_complete hv hsync (bs := bs) hlen hframe
  obtain ⟨qs, hqs, hrun⟩ := execAll_pushS_withResps ht u.resps
  have htotal : (byteAt u.pbuf 0 :: bs ++ [last]).length = bs.length + 2 := by simp
  refine ⟨_, hrun, ⟨qs, rfl, ?_⟩, hfllen.trans htotal, fun i hi => hfl i (hi.trans_eq htotal.symm)⟩
  have hnew : newResponses u t = { blankResponse .needMore with stat := statWord u } :: qs := by
    simp [newResponses, hqs]
  rw [hnew] at hst
  exact List.cons_injective hst

/-- Settles O57: byte 0 fails as the byte after the one held, and is itself retried as byte 0 of its frame. -/
theorem asyncResynchronisesAfterFramingError : Obligations.AsyncResynchronisesAfterFramingError := by
  intro s xs hfits hv hcnt hpst hframe hfunc
  have htotal : xs.length = 13 + declaredLen (bufOf xs) + s.params.syncLen := hframe.total
  have hle : xs.length ≤ 25 := (frameOk_le (v := .async) hfits hframe).1
  obtain ⟨b, xs, rfl⟩ := List.exists_cons_of_ne_nil (List.ne_nil_of_length_pos (l := xs) (by omega))
  obtain rfl | ⟨bs, last, rfl⟩ := List.eq_nil_or_concat' xs
  · simp at htotal
    omega
  have hlen : (b :: (bs ++ [last])).length = bs.length + 2 := by simp
  rw [hlen] at htotal hle hframe ⊢
  have hfail : check s.params s.variant (setByte s.pbuf s.pcnt.toNat b) s.pcnt.toNat b = some .fail := by
    simpa [hv, hcnt] using requireByte_ne hfunc
  obtain ⟨u, hu, hblock, -, hresps⟩ := pushFails_of_fail (by simp [hpst]) (by simp [hcnt]) hfail
  have hpbuf : byteAt u.pbuf 0 = b := by
    rw [← blockOf_pbuf, hblock]
    exact byteAt_setByte_self _ _ _ (by omega)
  have hps : u.params = s.params := by rw [← blockOf_params, hblock, blockOf_params]
  have huv : u.variant = s.variant := by rw [← blockOf_variant, hblock, blockOf_variant]
  obtain ⟨t, ht, ⟨qs, hqs, hst⟩, hfllen, hfl⟩ := pushS_async_of_retried (u := u) (bs := bs) (last := last)
    (by rw [← blockOf_pst, hblock]) (by rw [← blockOf_pcnt, hblock]) (huv.trans hv) (hps ▸ hfits.trailer) (by omega)
    (by rw [hpbuf, hps]; exact hframe)
  rw [hpbuf] at hfl
  refine ⟨t, (execAll_pushS_cons hu _).trans ht, ?_, hfllen, hfl⟩
  rw [newResponses, hqs, hresps, List.append_assoc, List.drop_left, List.map_append, hst]
  rfl

end Sys2Proof.Proofs
end

section
/-! PROOFS. Corruption of an aligned sync frame (42_parser.md R169): a byte changed changes one of its seven words, and
the frame check of the six words no longer is the seventh. -/
namespace Sys2Proof.Proofs
open Sys2Proof.Machine

/-! ### One byte of a buffer changed -/

theorem bufOf_set {l : List Byte} {i : Nat} (hi : i < l.length) (hl : l.length ≤ 25) (v : Byte) :
    bufOf (l.set i v) = setByte (bufOf l) i v := by
  refine buf_ext fun k hk => ?_
  rw [byteAt_setByte _ _ _ _ (by omega), byteAt_bufOf _ _ hk, byteAt_bufOf _ _ hk]
  split_ifs with hki
  · subst hki
    simp [List.getD_eq_getElem?_getD, hi]
  · simp [List.getD_eq_getElem?_getD, Ne.symm hki]

theorem wordAt_setByte_ne (buf : Buf) {i k : Nat} (v : Byte) (h : k ≠ i / 2) :
    wordAt (setByte buf i v) k = wordAt buf k :=
  wordAt_congr (byteAt_setByte_ne _ _ _ _ (by omega)) (byteAt_setByte_ne _ _ _ _ (by omega))

/-- A byte changed changes the word it is in: its high byte at an even position, its low byte at an odd one (R55). -/
theorem wordAt_setByte_changed {buf : Buf} {i : Nat} {v : Byte} (hi : i < 25) (hv : v ≠ byteAt buf i) :
    wordAt (setByte buf i v) (i / 2) ≠ wordAt buf (i / 2) := by
  intro h
  obtain heven | hodd : 2 * (i / 2) = i ∨ 2 * (i / 2) + 1 = i := by omega
  · have hhi := congrArg hiByte h
    rw [wordAt, wordAt, hiByte_wordOf, hiByte_wordOf, heven, byteAt_setByte_self _ _ _ hi] at hhi
    exact hv hhi
  · have hlo := congrArg loByte h
    rw [wordAt, wordAt, loByte_wordOf, loByte_wordOf, hodd, byteAt_setByte_self _ _ _ hi] at hlo
    exact hv hlo

/-- A byte of the first twelve changed changes one of the words checked. -/
theorem checkedWords_setByte (buf : Buf) {i : Nat} (v : Byte) (hi : i < 12) :
    checkedWords (setByte buf i v) = (checkedWords buf).set (i / 2) (wordAt (setByte buf i v) (i / 2)) := by
  have hword : ∀ k, k ≠ i / 2 → wordAt (setByte buf i v) k = wordAt buf k := fun k => wordAt_setByte_ne buf v
  have hk : i / 2 < 6 := by omega
  generalize i / 2 = k at hword hk ⊢
  interval_cases k <;> simp [checkedWords, hword]

theorem getD_checkedWords (buf : Buf) {k : Nat} (hk : k < 6) : (checkedWords buf).getD k 0 = wordAt buf k := by
  interval_cases k <;> rfl

/-- A correct frame with any one byte changed is not correct, the polynomial being odd. -/
theorem crc16_ne_of_byte_changed {ps : Params} {buf : Buf} {i : Nat} {v : Byte} (hp : ps.crcPoly.getLsbD 0 = true)
    (hcrc : wordAt buf 6 = crc16 ps (checkedWords buf)) (hi : i < 14) (hv : v ≠ byteAt buf i) :
    crc16 ps (checkedWords (setByte buf i v)) ≠ wordAt (setByte buf i v) 6 := by
  have hchanged := wordAt_setByte_changed (show i < 25 by omega) hv
  obtain hword | hcheck := Nat.lt_or_ge i 12
  · rw [checkedWords_setByte buf v hword, wordAt_setByte_ne buf v (show 6 ≠ i / 2 by omega), hcrc]
    exact crc16_set_ne hp (show i / 2 < 6 by omega) (by rwa [getD_checkedWords buf (by omega)])
  · have hsix : i / 2 = 6 := by omega
    rw [hsix] at hchanged
    rw [checkedWords_congr fun k hk => byteAt_setByte_ne _ _ _ _ (by omega), ← hcrc]
    exact hchanged.symm

/-! ### The obligation -/

/-- A bit flipped changes the value, at any width. -/
theorem xor_shiftLeft_one_ne {n : Nat} (x : BitVec n) {j : Nat} (hj : j < n) : x ^^^ (1#n <<< j) ≠ x := by
  intro h
  have hbit := congrArg (BitVec.getLsbD · j) h
  simp [hj] at hbit

/-- A sync frame has 14 bytes (R82). -/
theorem syncFrame_length (ps : Params) {ws : List Word} (hws : ws.length = 6) : (syncFrame ps ws).length = 14 := by
  match ws, hws with
  | [a, b, c, d, e, f], _ => rw [syncFrame_six]; rfl

/-- Settles O58: a bit flipped is a byte changed, and the polynomial of the rule is odd. -/
theorem syncSingleBitCorruptionDetected : Obligations.SyncSingleBitCorruptionDetected := by
  intro s ws i j hpoly hv hs hws hi hj
  have hlen := syncFrame_length s.params hws
  have hbad := crc16_ne_of_byte_changed (ps := s.params) (v := (syncFrame s.params ws).getD i 0 ^^^ (1#8 <<< j))
    (by rw [hpoly]; rfl) (wordAt_syncFrame_check s.params hws) hi
    (by rw [byteAt_bufOf _ _ (by omega)]; exact xor_shiftLeft_one_ne _ hj)
  rw [← bufOf_set (by omega) (by omega)] at hbad
  obtain ⟨t, q, ht, hst, hq, hfe⟩ := pushS_sync_fails hv hs (by rw [List.length_set, hlen]) hbad
  exact ⟨t, ht, hst, q, hq, hfe⟩

end Sys2Proof.Proofs
end

section
/-! PROOFS. Control (43_control.md R180 to R182, 70_reset_and_hazards.md R221): `NOP`, `RESET` against power-on, and the
words that spell no command. -/
namespace Sys2Proof.Proofs
open Sys2Proof.Machine

/-! ### `NOP` (R180) -/

/-- Settles O12: `NOP` is an answer and nothing else. -/
theorem nopWritesNothing : Obligations.NopWritesNothing := fun s => answer_responded s (blankResponse .ok)

/-! ### `RESET` against power-on (R221) -/

theorem frontBytes_zero_length (b : Buf) : frontBytes b 0 = Buf.zero :=
  buf_ext fun i _ => by simp [byteAt_frontBytes]

/-- With no byte held and nothing latched, no byte of either buffer is read (R27, R30). -/
theorem observable_of_empty {s : State} (hpcnt : s.pcnt = 0) (hvalid : s.flValid = false) :
    observable s = { s with pbuf := Buf.zero, fl := Buf.zero } := by
  simp [observable, hpcnt, hvalid, frontBytes_zero_length]

/-- Settles O16: after `RESET` and after power-on nothing is held or latched, and the registers are the same. -/
theorem resetCommandEqualsPowerOn : Obligations.ResetCommandEqualsPowerOn := by
  intro s
  refine ⟨respond (resetBlock s) (blankResponse .ok), rfl, ?_⟩
  rw [observable_of_empty ((respond_pcnt ..).trans (resetBlock_pcnt s))
      ((respond_flValid ..).trans (resetBlock_flValid s)),
    observable_of_empty (powerOn_pcnt s.params s.variant) (powerOn_flValid s.params s.variant)]
  rfl

/-! ### Words that spell no command (R74, R75, R182) -/

/-- The rows past the tenth are those of the reserved opcodes. -/
theorem mnemonic_of_reserved_row : ∀ r ∈ opRows, r ∉ opRows.take 10 →
    r.mnemonic = "RESERVED_A_B" ∨ r.mnemonic = "RESERVED_C_F" := by decide

theorem reserved_of_mnemonic {i : Instr} (h : i.mnemonic = "RESERVED_A_B" ∨ i.mnemonic = "RESERVED_C_F") :
    (∃ low rest, i = .reservedAB low rest) ∨ (∃ low rest, i = .reservedCF low rest) := by
  cases i with
  | reservedAB low rest => exact .inl ⟨low, rest, rfl⟩
  | reservedCF low rest => exact .inr ⟨low, rest, rfl⟩
  | _ => simp [Instr.mnemonic] at h

/-- An accepted word outside the rows of R72 has a reserved opcode: it matches the row of its command (O4). -/
theorem reserved_of_no_row {c : CmdWord} {i : Instr} (hrows : ∀ r ∈ opRows.take 10, r.hits c = false)
    (hd : decode c = .ok i) : (∃ low rest, i = .reservedAB low rest) ∨ (∃ low rest, i = .reservedCF low rest) := by
  obtain ⟨r, hr, hname, hhits⟩ := hits_of_decode_eq_ok hd
  have hlast : r ∉ opRows.take 10 := fun hfirst => by simp [hrows r hfirst] at hhits
  exact reserved_of_mnemonic (hname ▸ mnemonic_of_reserved_row r hr hlast)

/-- A step on a word outside the rows of R72 answers `NOT_SUPPORTED` in the state with that word taken. -/
theorem step_of_no_row {s : State} {c : CmdWord} {rest : List CmdWord} (hs : s.cmds = c :: rest)
    (hrows : ∀ r ∈ opRows.take 10, r.hits c = false) : ∃ t, step s = .next t ∧
      blockOf t = blockOf { s with cmds := rest } ∧ Responded { s with cmds := rest } t (blankResponse .notSupported) := by
  cases hd : decode c with
  | ok i =>
    rw [step_decoded hs hd]
    exact reservedOpcodesAnswerNotSupported _ i (reserved_of_no_row hrows hd)
  | error e =>
    rw [step_rejected hs hd]
    exact answer_responded _ _

/-- Settles O9: the block being unchanged, `STAT` after the step is `STAT` before it. -/
theorem wordThatSpellsNoCommandIsNotSupported : Obligations.WordThatSpellsNoCommandIsNotSupported := by
  intro s c rest hs hrows
  obtain ⟨t, ht, hblock, hcmds, hresps⟩ := step_of_no_row hs hrows
  have hstat : statWord t = statWord s := statWord_congr hblock
  exact ⟨t, ht, hblock, hcmds, hstat ▸ hresps⟩

end Sys2Proof.Proofs
end

section
/-! PROOFS. Exceptions (60_exceptions.md R202, R204, R210): where a `PUSH` can fail and with which `fe_state`, that a
refused command writes nothing, and that no step stops. -/
namespace Sys2Proof.Proofs
open Sys2Proof.Machine

/-! ### No step stops (R210) -/

/-- `FRAME_READ`, `ENC_A` and `ENC_S` answer, whether refused or carried out (R204). -/
theorem ite_answer_answers (p : Prop) [Decidable p] (s : State) (r r' : Response) :
    ∃ t, (if p then answer s r else answer s r') = .next t := by
  split <;> exact ⟨_, rfl⟩

/-- A command answers from a state that meets the invariant: the only one that could stop is `PUSH` (O38). -/
theorem exec_answers {s : State} (h : BlockInv s) (i : Instr) : ∃ t, exec i s = .next t := by
  cases i with
  | push b =>
    obtain ⟨t, -, ht, -⟩ := pushEndsInOneOfThreeOutcomes s b h
    exact ⟨t, ht⟩
  | frameRead => exact ite_answer_answers _ s _ _
  | encA len b addr data => exact ite_answer_answers _ s _ _
  | encS len b addr sub cmd pend data => exact ite_answer_answers _ s _ _
  | _ => exact ⟨_, rfl⟩

/-- Settles O49: a step idles, refuses its word with an answer, or runs a command that answers. -/
theorem noStepStops : Obligations.NoStepStops := by
  intro s h
  cases hc : s.cmds with
  | nil => exact ⟨s, step_idle hc⟩
  | cons c rest =>
    cases hd : decode c with
    | ok i =>
      rw [step_decoded hc hd]
      exact exec_answers (blockInv_withCmds h rest) i
    | error e => exact ⟨_, step_rejected hc hd⟩

/-! ### The failing positions (R202) -/

/-- The response of a `PUSH` names the result of its check (R140). -/
theorem push_status_cases {s t : State} {b : Byte} {r : Response} (h : exec (.push b) s = .next t)
    (hresps : t.resps = s.resps ++ [r]) :
    ∃ k, check s.params s.variant (setByte s.pbuf (restart s).pcnt.toNat b) (restart s).pcnt.toNat b = some k ∧
      ((k = .fail ∧ r.status = .framingError) ∨ (k = .done ∧ r.status = .complete) ∨
        (k = .pass ∧ r.status = .needMore)) := by
  obtain ⟨-, k, hk, hr⟩ := pushByte_next (s := restart s) h
  rw [restart_params, restart_variant, restart_pbuf] at hk
  refine ⟨k, hk, ?_⟩
  rw [← restart_resps s] at hresps
  obtain ⟨rfl, rfl⟩ | ⟨rfl, rfl⟩ | ⟨rfl, rfl⟩ := pushResult_next hr
  · exact .inl ⟨rfl, List.singleton_inj.1 (List.append_cancel_left hresps) ▸ rfl⟩
  · exact .inr (.inl ⟨rfl, List.singleton_inj.1 (List.append_cancel_left hresps) ▸ rfl⟩)
  · exact .inr (.inr ⟨rfl, List.singleton_inj.1 (List.append_cancel_left hresps) ▸ rfl⟩)

theorem checkTrailer_fail {ps : Params} {n p : Nat} {b : Byte} (h : checkTrailer ps n p b = some .fail) :
    13 + n ≤ p ∧ p < 13 + n + ps.syncLen ∧ b ≠ ps.syncByte := by
  unfold checkTrailer Config.headerLen at h
  split_ifs at h with hpay hend hb
  · cases h
  · exact ⟨Nat.le_of_not_lt hpay, hend, hb⟩
  · cases h
  · cases h

/-- The four rows of R202 an async frame has. -/
theorem check_async_fail {ps : Params} {buf : Buf} {p : Nat} {b : Byte} (h : check ps .async buf p b = some .fail) :
    (p = 1 ∧ b ≠ ps.func) ∨ (p = 2 ∧ b ≠ ps.typeCode) ∨ (p = 12 ∧ ps.maxPayload < declaredLen buf) ∨
    (13 + declaredLen buf ≤ p ∧ p < 13 + declaredLen buf + ps.syncLen ∧ b ≠ ps.syncByte) := by
  obtain rfl | rfl | rfl | ⟨h3, h11⟩ | rfl | hp := async_position_cases p
  · simp at h
  · exact .inl ⟨rfl, by rintro rfl; simp at h⟩
  · exact .inr (.inl ⟨rfl, by rintro rfl; simp at h⟩)
  · simp [check_async_header _ _ _ h3 h11] at h
  · exact .inr (.inr (.inl ⟨rfl, by simpa using h⟩))
  · rw [check_async_tail _ _ _ hp] at h
    exact .inr (.inr (.inr (checkTrailer_fail h)))

/-- The row of R202 a sync frame has. -/
theorem check_sync_fail {ps : Params} {buf : Buf} {p : Nat} {b : Byte}
    (h : check ps .sync (setByte buf p b) p b = some .fail) :
    p = 13 ∧ crc16 ps (checkedWords buf) ≠ wordOf (byteAt buf 12) b := by
  rcases Nat.lt_trichotomy p 13 with hp | rfl | hp
  · simp [check_sync_early _ _ _ hp] at h
  · rw [check_sync_last_setByte] at h
    exact ⟨rfl, by simpa using h⟩
  · simp [check_sync_past _ _ _ hp] at h

/-- Settles O37: a failed check fixes the position, and the position fixes `PST` (R28). -/
theorem framingErrorStateByPosition : Obligations.FramingErrorStateByPosition := by
  intro s t b r hinv h hresps hstatus
  obtain ⟨-, -, -, -, -, -, hbuild, hfe⟩ := framingErrorKeepsTheByte s t b r h hresps hstatus
  obtain ⟨k, hk, hcase⟩ := push_status_cases h hresps
  obtain rfl : k = .fail := by
    obtain ⟨rfl, -⟩ | ⟨-, hst⟩ | ⟨-, hst⟩ := hcase
    · rfl
    · simp [hst] at hstatus
    · simp [hst] at hstatus
  rw [restart_building hbuild] at hk
  rw [(hinv.building hbuild).1] at hfe
  cases hv : s.variant with
  | async =>
    rw [hv] at hk hfe
    obtain ⟨hp, hb⟩ | ⟨hp, hb⟩ | ⟨hp, hlen⟩ | ⟨hlo, hhi, hb⟩ := check_async_fail hk
    · rw [hp] at hfe
      exact .inl ⟨rfl, BitVec.eq_of_toNat_eq hp, hb, hfe⟩
    · rw [hp] at hfe
      exact .inr (.inl ⟨rfl, BitVec.eq_of_toNat_eq hp, hb, hfe⟩)
    · rw [hp] at hfe hlen
      rw [declaredLen_setByte_low] at hlen
      exact .inr (.inr (.inl ⟨rfl, BitVec.eq_of_toNat_eq hp, hlen, hfe⟩))
    · rw [declaredLen_setByte _ _ (by omega) (by omega)] at hlo hhi
      rw [stage_async_trailer (by omega)] at hfe
      exact .inr (.inr (.inr (.inl ⟨rfl, hlo, by omega, hb, hfe⟩)))
  | sync =>
    rw [hv] at hk hfe
    obtain ⟨hp, hcrc⟩ := check_sync_fail hk
    rw [hp] at hfe
    exact .inr (.inr (.inr (.inr ⟨rfl, BitVec.eq_of_toNat_eq hp, hcrc, hfe⟩)))

/-! ### Refused commands (R204) -/

/-- A command other than `PUSH` leaves the block as it was or answers `OK`. -/
theorem exec_unchanged_or_ok {i : Instr} {s t : State} (h : exec i s = .next t) :
    (∃ b, i = .push b) ∨ blockOf t = blockOf s ∨ ∃ q, Responded s t q ∧ q.status = .ok := by
  obtain ⟨b, hb, -⟩ | ⟨r, rfl, -⟩ | ⟨r, rfl, -⟩ | ⟨v, r, hi, -⟩ | ⟨r, rfl⟩ := exec_next_cases h
  · exact .inl ⟨b, hb⟩
  · exact .inr (.inr ⟨_, responded_of_answer (resetBlock_cmds s) (resetBlock_resps s) h, rfl⟩)
  · exact .inr (.inr ⟨_, responded_of_answer (clearParser_cmds s) (clearParser_resps s) h, rfl⟩)
  · obtain rfl | ⟨b, rfl⟩ | ⟨w, rfl⟩ := hi <;>
      exact .inr (.inr ⟨_, responded_of_answer (setCrc_cmds s _) (setCrc_resps s _) h, rfl⟩)
  · exact .inr (.inl rfl)

/-- A command that writes the block gives one of the four statuses that are no refusal (R201, R204). -/
theorem exec_unchanged_or_accepted {i : Instr} {s t : State} {r : Response} (h : exec i s = .next t)
    (hresps : t.resps = s.resps ++ [r]) : blockOf t = blockOf s ∨
      r.status = .ok ∨ r.status = .needMore ∨ r.status = .complete ∨ r.status = .framingError := by
  obtain ⟨b, rfl⟩ | hblock | ⟨q, ⟨-, hq⟩, hok⟩ := exec_unchanged_or_ok h
  · obtain ⟨-, -, ⟨-, hst⟩ | ⟨-, hst⟩ | ⟨-, hst⟩⟩ := push_status_cases h hresps <;> simp [hst]
  · exact .inl hblock
  · obtain rfl := List.singleton_inj.1 (List.append_cancel_left (hq.symm.trans hresps))
    exact .inr (.inl hok)

/-- Settles O50: a step that writes the block is not answered by a refusal, and `STAT` depends on the block alone. -/
theorem refusedCommandsChangeNothing : Obligations.RefusedCommandsChangeNothing := by
  intro s t c rest r hc h hresps href
  have hblock : blockOf t = blockOf s := by
    cases hd : decode c with
    | ok i =>
      rw [step_decoded hc hd] at h
      obtain hblock | hst | hst | hst | hst := exec_unchanged_or_accepted h hresps
      · exact hblock
      all_goals simp [hst] at href
    | error e =>
      rw [step_rejected hc hd] at h
      exact answer_eq_next.1 h ▸ rfl
  obtain ⟨-, q, hq, hstat⟩ := everyCommandGetsOneResponse s t c rest hc h
  obtain rfl := List.singleton_inj.1 (List.append_cancel_left (hq.symm.trans hresps))
  exact ⟨hblock, hstat.trans (statWord_congr hblock)⟩

end Sys2Proof.Proofs
end

section
/-! PROOFS. The bytes no rule names (log entries 6 and 7): `RESET` writes neither buffer, and a completed frame writes the
latch only below its length. -/
namespace Sys2Proof.Proofs
open Sys2Proof.Machine

/-- The latch copies a frame over its first `FL_LEN` bytes and no others (R148, log entry 7). -/
theorem byteAt_latchFrame_of_le {s : State} {i : Nat} (h : (latchFrame s).flLen.toNat ≤ i) :
    byteAt (latchFrame s).fl i = byteAt s.fl i :=
  (byteAt_copyFront _ _ _ _).trans (if_neg (Nat.not_lt.2 h))

/-- A `PUSH` that ends in `COMPLETE` got there by latching the frame with its byte stored (R140, R148). -/
theorem latchFrame_of_push_complete {s t : State} {b : Byte} (h : exec (.push b) s = .next t) (hc : t.pst = .complete) :
    ∃ r, t = respond (latchFrame (storeByte (restart s) (restart s).pcnt.toNat b)) r := by
  obtain ⟨-, k, -, hr⟩ := pushByte_next (s := restart s) h
  obtain ⟨-, rfl⟩ | ⟨-, rfl⟩ | ⟨-, rfl⟩ := pushResult_next hr
  · cases hc
  · exact ⟨_, rfl⟩
  · exact absurd hc (stage_ne_complete _ _)

/-- Settles O40: `RESET` is an answer in `resetBlock s`, and only the latch ends a `PUSH` in `COMPLETE`. -/
theorem unnamedBytesStay : Obligations.UnnamedBytesStay := by
  refine ⟨fun s => ⟨_, rfl, resetBlock_pbuf s, resetBlock_fl s⟩, fun s t b h hc i hi => ?_⟩
  obtain ⟨r, rfl⟩ := latchFrame_of_push_complete h hc
  rw [respond_flLen] at hi
  rw [respond_fl, byteAt_latchFrame_of_le hi, storeByte_fl, restart_fl]

end Sys2Proof.Proofs
end
